-- ==== Sys2Proof/Word.lean ====
section
/-!
DEFINITION. The widths of the block's quantities (R12, R82) as names for bit vectors. Arithmetic beyond what
`BitVec` gives stands in `Machine/Flags.lean` and `Machine/Operands.lean`.
-/

namespace Sys2Proof

/-- A device register address, a device register value, a command byte or one byte of a bulk block: 8 bits (R12, R58;
D6 errs toward proving for a device with 16-bit register addresses, which is not modelled). -/
abbrev Byte := BitVec 8

/-- A 16-bit quantity: the `B` field (R82), a bulk length (R12), a raw axis value (R91), a register pair (R96, R98). -/
abbrev Half := BitVec 16

/-- One operation word (R82). -/
abbrev Word := BitVec 32

/-- A timestamp or an interval between timestamps: unsigned 64-bit microseconds of a monotonic clock (R12, R34). -/
abbrev Time := BitVec 64

/-- An accounting counter: unsigned, 64 bits, saturating (R12, R40). -/
abbrev Counter := BitVec 64

end Sys2Proof
end

