-- ==== Sys2Proof/Config.lean ====
section
/-!
DEFINITION. What an implementation fixes (the parameters of R9, R10 and R11, held by every state and written by no
operation) and the free values: opaque constants with no body, of which nothing can be proved.
-/

namespace Sys2Proof

/-! ## Fixed parameters (R9) -/

/-- Axes per sample: x, y, z (R9; D3 errs toward proving if a structural number is wrong in the source). -/
def axes : Nat := 3

/-- Tag bytes per frame (R9). -/
def tagBytes : Nat := 1

/-- Bytes per frame, 3 × 2 + 1 (R9, R88). -/
def frameSize : Nat := axes * 2 + tagBytes

/-- Bytes of the command and dummy pair before the frames of a bulk block (R9, R93). -/
def hdrSize : Nat := 2

/-- A missed data-ready is 2 × the expected interval (R9). -/
def stallFactor : Nat := 2

/-! ## Types of the parameters -/

/-- The classes of a frame tag (R90; D14 errs neither way while TagClass is a parameter). -/
inductive TagClass where
  | valid
  | notReady
  | invalid
  deriving DecidableEq, Repr, Inhabited

/-- One entry of the register configuration table: register, set-bits mask, clear-bits mask (R30). -/
structure RegisterConfigEntry where
  reg : Byte
  setBits : Byte
  clearBits : Byte
  deriving DecidableEq, Repr, Inhabited

/-- The base of each Configure write: the register's current value, or zero (R11, U2; D17 errs toward unprovable in RMW,
which has more transactions that may fail). -/
inductive ConfigBaseMode where
  | rmw
  | zero
  deriving DecidableEq, Repr, Inhabited

/-- A value in physical units. The spec leaves the type open and uses the integers in its vectors (R10);
DESIGN CHOICE, log entry 5. -/
abbrev Phys := Int

/-- The parameters of the model: R10 (left open by the source, D4) and R11 (decided by the spec, D5). Every state holds one
set, and no operation writes it, so a statement about every state is a statement about every parameter set. -/
structure Params where
  /-- DEV_FIFO_CAP, the device's physical FIFO capacity in frames. -/
  devFifoCap : Nat
  /-- CONS_BATCH_CAP, the consumer's maximum batch size in samples. -/
  consBatchCap : Nat
  /-- REG_FIFO_LEN_LO. -/
  regFifoLenLo : Byte
  /-- REG_FIFO_LEN_HI. -/
  regFifoLenHi : Byte
  /-- REG_FIFO_DATA, the command byte of the FIFO bulk read. -/
  regFifoData : Byte
  /-- REG_CMD_SOFTRESET. -/
  regCmdSoftreset : Byte
  /-- VAL_SOFTRESET. -/
  valSoftreset : Byte
  /-- REG_CMD_FLUSH. -/
  regCmdFlush : Byte
  /-- VAL_FLUSH. -/
  valFlush : Byte
  /-- REG_TEMP_LO. -/
  regTempLo : Byte
  /-- REG_TEMP_HI. -/
  regTempHi : Byte
  /-- TagClass as data: the class of each listed byte; every unlisted byte is invalid (log entry 4). -/
  tagClasses : List (Byte × TagClass)
  /-- SAMPLE_INTERVAL_US. -/
  sampleIntervalUs : Nat
  /-- WATERMARK_SAMPLES. -/
  watermarkSamples : Nat
  /-- DRDY_AVAILABLE (U4). -/
  drdyAvailable : Bool
  /-- SETTLE_MIN_US. -/
  settleMinUs : Nat
  /-- RESET_MAX_WAIT_US. -/
  resetMaxWaitUs : Nat
  /-- TEMP_INTERVAL_US. -/
  tempIntervalUs : Nat
  /-- TABLE, the ordered register configuration table (R30). -/
  table : List RegisterConfigEntry
  /-- FIFO_COUNT_DIV, raw FIFO-length units per frame (U7; D10 errs toward proving for a device that counts bytes unless
  it is set). -/
  fifoCountDiv : Nat := 1
  /-- CONFIG_BASE_MODE. -/
  configBaseMode : ConfigBaseMode := .rmw
  /-- CURSOR_RESET_ON_CONFIGURE (U1; D23 errs toward proving for the original's implicit reset unless it is set). -/
  cursorResetOnConfigure : Bool := false
  /-- CONFIG_ATTEMPT_MAX (D24 errs neither way for claims that hold for every ceiling). -/
  configAttemptMax : Nat := 3
  /-- BUS_ERROR_RESET_THRESHOLD (D25 errs as D24). -/
  busErrorResetThreshold : Nat := 3
  /-- BADFRAME_RESET_THRESHOLD (D26 errs as D24). -/
  badframeResetThreshold : Nat := 3
  /-- CFG_CHECK_INTERVAL_US (U9; D39 errs neither way at 0). -/
  cfgCheckIntervalUs : Nat := 0
  /-- DRDY_EXPECTED_INTERVAL_US (D36 errs neither way while it may be overridden). -/
  drdyExpectedIntervalUs : Nat := watermarkSamples * sampleIntervalUs
  /-- TIMER_INTERVAL_US; no rule reads it (D33). -/
  timerIntervalUs : Nat := drdyExpectedIntervalUs
  /-- RESET_PROBE_REG (U8; D27 errs toward proving for a device that needs a status poll unless the probe is set). -/
  resetProbeReg : Byte := 0x00#8
  /-- RESET_PROBE_MASK; 0 means that no probe read is made. -/
  resetProbeMask : Byte := 0x00#8
  /-- RESET_PROBE_VALUE. -/
  resetProbeValue : Byte := 0x00#8
  /-- HARNESS_MODE (D47 errs neither way in normal mode). -/
  harnessMode : Bool := false
  deriving DecidableEq, Repr, Inhabited

/-- min(DEV_FIFO_CAP, CONS_BATCH_CAP): the most samples one FifoRead transfers (R67, R85). -/
def Params.maxSamples (p : Params) : Nat := min p.devFifoCap p.consBatchCap

/-- The register configuration table of the spec's vectors (95_test_vectors.md §1.2). -/
def vectorTable : List RegisterConfigEntry :=
  [⟨0x40#8, 0x02#8, 0x01#8⟩, ⟨0x41#8, 0x10#8, 0x00#8⟩, ⟨0x42#8, 0x03#8, 0x0C#8⟩]

/-- The parameter set of the spec's vectors: the "vectors" column of R10 and the decided values of R11. It is the spec's own
example, not the device's values; `State.reset` starts from it (DESIGN CHOICE, log entry 1). -/
def Params.vectors : Params where
  devFifoCap := 10
  consBatchCap := 20
  regFifoLenLo := 0x22#8
  regFifoLenHi := 0x23#8
  regFifoData := 0x24#8
  regCmdSoftreset := 0x7F#8
  valSoftreset := 0x5A#8
  regCmdFlush := 0x7F#8
  valFlush := 0x3C#8
  regTempLo := 0x20#8
  regTempHi := 0x21#8
  tagClasses := [(0xA0#8, .valid), (0x00#8, .notReady)]
  sampleIntervalUs := 1000
  watermarkSamples := 5
  drdyAvailable := true
  settleMinUs := 1000
  resetMaxWaitUs := 100000
  tempIntervalUs := 1000000
  table := vectorTable

/-- The checks of R13, one name each, and the bound that R10 gives TEMP_INTERVAL_US and R13 does not list (log entry 15); a
parameter set that fails one is refused under a name of these (R179). -/
inductive ParamCheck where
  | tableNotEmpty
  | masksDisjoint
  | devFifoCapPositive
  | consBatchCapPositive
  | sampleIntervalPositive
  | watermarkPositive
  | resetWaitCoversSettle
  | fifoCountDivPositive
  | fifoCapacityFitsCount
  | bulkBlockFitsLength
  | configAttemptMaxPositive
  | busErrorThresholdPositive
  | badframeThresholdPositive
  | tempIntervalPositive
  deriving DecidableEq, Repr, Inhabited

/-! ## What the environment does -/

/-- The two events of the callback context (R20, R138). -/
inductive Callback where
  | drdy
  | timer
  deriving DecidableEq, Repr, Inhabited

/-- The boundary operations: what the environment and the scheduler do to the block (R3, class B of R84). -/
inductive BoundaryOp where
  | tick
  | drdySignal
  | timerExpire
  | cmdStart
  | cmdStop
  | cmdReset
  | cmdPrintDiagnostics
  deriving DecidableEq, Repr, Inhabited

/-- One request to the bus transport: a read, a write, or a bulk transfer of `length` bytes (R109, R110). -/
inductive BusRequest where
  | read (addr : Byte)
  | write (addr value : Byte)
  | bulk (cmd : Byte) (length : Nat)
  deriving DecidableEq, Repr, Inhabited

/-! ## Free values

Nothing can be proved of an opaque constant, so a claim that mentions one holds whatever the environment does. Each is
applied to a draw counter of the state, which makes every draw a fresh value. -/

/-- Whether the n-th free bus transaction fails (R110, U10). Free value, log entry 2. -/
opaque Config.freeBusError : (draw : Nat) → BusRequest → Bool

/-- Byte `i` of what the n-th free bus transaction receives (R110, U10, U12, U13, U17). Free value, log entry 2. -/
opaque Config.freeBusByte : (draw : Nat) → BusRequest → (i : Nat) → Byte

/-- The callback steps that run while the n-th free bus transaction blocks the task (R76, R116). Free value, log entry 2. -/
opaque Config.freeCallbacks : (draw : Nat) → List Callback

/-- The n-th free value of the clock (R140, U15). Free value, log entry 3. -/
opaque Config.freeClock : (draw : Nat) → Time

/-- The n-th operation the environment or the scheduler issues in normal mode when no program line is left (R76, U16). Free
value, log entry 6. -/
opaque Config.freeOperation : (draw : Nat) → BoundaryOp

/-- The n-th word issued in HARNESS_MODE when no program line is left: any word (R76, R86). Free value, log entry 6. -/
opaque Config.freeWord : (draw : Nat) → Word

/-- ScaleAxis, of the sign-extended axis value (R10, R91, R92; D15 errs neither way while a parameter). Log entry 5. -/
opaque Config.scaleAxis : BitVec 32 → Phys

/-- TempConvert (R10, R136). Log entry 5. -/
opaque Config.tempConvert : Half → Phys

/-- The 64-bit interval field of a batch when SAMPLE_INTERVAL_US does not fit 64 bits, which the spec does not state (R99).
Free value, log entry 9. -/
opaque Config.wideInterval : (sampleIntervalUs : Nat) → Time

end Sys2Proof
end

