-- ==== Sys2Proof/Machine/Types.lean ====
section
/-!
DEFINITION. The records and names the state is made of: the acquisition states, the outcomes of operations, the bus history,
batches, snapshots and the kinds of model fault.
-/

namespace Sys2Proof.Machine

/-- The six states of the acquisition state machine, exactly one live at a time (R23, R101, R102). -/
inductive AcqState where
  | reset
  | waitForReset
  | configure
  | fifoRead
  | requestStop
  | stopped
  deriving DecidableEq, Repr, Inhabited

/-! ## The bus (R57, R109) -/

/-- The operation of a bus event (R57). -/
inductive BusOp where
  | readRegister
  | writeRegister
  | bulkTransfer
  deriving DecidableEq, Repr, Inhabited

/-- The outcome of a transaction: `Ok(bytes)` or `Err(BusError)` (R57, R109). A write's `Ok` carries no bytes. -/
inductive BusResult where
  | ok (bytes : List Byte)
  | busError
  deriving DecidableEq, Repr, Inhabited

/-- One entry of the bus history (R57): `a` is the address or command byte; `b` the written value or the length, 0 for a
read; `state` is `ctx.state` at the tick that issued it. -/
structure BusEvent where
  op : BusOp
  a : Byte
  b : Half
  result : BusResult
  state : AcqState
  deriving DecidableEq, Repr, Inhabited

/-- One answer of the transport, given for whichever transaction comes next (R107, R110): whether it fails; the byte a read
receives; the bytes a bulk transfer receives; and the callback steps that run while the transaction blocks the task (R76,
R116). A write uses `error` alone. What the answers of a program text give in each part is log entry 21. -/
structure BusAnswer where
  error : Bool
  byte : Byte
  block : List Byte
  during : List Callback
  deriving DecidableEq, Repr, Inhabited

/-! ## Outcomes (R26) -/

/-- Configure: `Success | Fail(BusError) | Fail(Mismatch)` (R118). -/
inductive ConfigureOutcome where
  | success
  | failBusError
  | failMismatch
  deriving DecidableEq, Repr, Inhabited

/-- RegisterCheck: `Match | Mismatch | BusErr` (R122). -/
inductive CheckOutcome where
  | matched
  | mismatch
  | busErr
  deriving DecidableEq, Repr, Inhabited

/-- ReadFifoCount: `Count(n) | Empty | Overflow | BusErr` (R126). -/
inductive CountOutcome where
  | count (n : Nat)
  | empty
  | overflow
  | busErr
  deriving DecidableEq, Repr, Inhabited

/-- FifoRead: `Ok | BadFrame(k) | BadLength | BusErr` (R128). -/
inductive FifoReadOutcome where
  | ok
  | badFrame (k : Nat)
  | badLength
  | busErr
  deriving DecidableEq, Repr, Inhabited

/-- SoftReset, FifoReset and the temperature update: `Ok | BusErr` (R134, R136, R145). -/
inductive UnitOutcome where
  | ok
  | busErr
  deriving DecidableEq, Repr, Inhabited

/-- The outcome of one operation issued on its own in HARNESS_MODE, under the operation's name (R26, R86). -/
inductive OpOutcome where
  | readRegister (r : BusResult)
  | writeRegister (r : BusResult)
  | bulkTransfer (r : BusResult)
  | configure (r : ConfigureOutcome)
  | registerCheck (r : CheckOutcome)
  | readFifoCount (r : CountOutcome)
  | fifoRead (r : FifoReadOutcome)
  | fifoReset (r : UnitOutcome)
  | temperatureUpdate (r : UnitOutcome)
  | softReset (r : UnitOutcome)
  deriving DecidableEq, Repr, Inhabited

/-- The error classes, in the order of their codes (R103, R170 to R177). -/
inductive ErrorClass where
  | busError
  | configMismatch
  | badFrame
  | overflow
  | initializationTimeout
  | badLength
  | fifoEmpty
  deriving DecidableEq, Repr, Inhabited

/-! ## Records at the block's boundary (R52, R99) -/

/-- A validated frame: its index in the block and its three raw axis values (R91, R128). -/
structure RawSample where
  k : Nat
  x : Half
  y : Half
  z : Half
  deriving DecidableEq, Repr, Inhabited

/-- A sample handed to the consumer (R99). -/
structure Sample where
  t : Time
  rawX : Half
  rawY : Half
  rawZ : Half
  x : Phys
  y : Phys
  z : Phys
  deriving DecidableEq, Repr, Inhabited

/-- A batch: its samples, oldest first, and the capture interval (R50, R99). -/
structure Batch where
  samples : List Sample
  interval : Time
  deriving DecidableEq, Repr, Inhabited

/-- A diagnostics snapshot, fields 0 to 19 in the order of R52. -/
structure Snapshot where
  state : BitVec 3
  cursor : Nat
  drdyEnabled : Bool
  timerEnabled : Bool
  initFailed : Bool
  cntBadRegister : Counter
  cntBadTransfer : Counter
  cntFifoEmpty : Counter
  cntFifoOverflow : Counter
  cntFifoReset : Counter
  drdyIntervalLast : Option Time
  tempRaw : Option Half
  temperature : Option Phys
  configFailStreak : Nat
  busErrorStreak : Nat
  badframeStreak : Nat
  tReset : Option Time
  tCfgCheck : Option Time
  tDrdy : Option Time
  tTemp : Option Time
  deriving DecidableEq, Repr, Inhabited

/-- The kinds of model fault (R178). -/
inductive FaultKind where
  | clockRegression
  | timestampUnderflow
  | scratchOverflow
  deriving DecidableEq, Repr, Inhabited

/-! ## Program text (R106, R107) -/

/-- One line of a program as the environment gives it: an operation word, a clock annotation `@t=`, or a bus annotation. The
annotations are not operations and have no word (R107). -/
inductive ProgramLine where
  | op (w : Word)
  | atTime (t : Time)
  | bus (answers : List BusAnswer)
  deriving DecidableEq, Repr, Inhabited

end Sys2Proof.Machine
end

