-- ==== Sys2Proof/Syntax.lean ====
section
/-!
DEFINITION. The operations of the block, one constructor for each row of spec/opcode_table.json (R3, R84).
-/

namespace Sys2Proof

/-- The 17 operations (R84; D2 errs neither way: the encoding is the model's interface). -/
inductive Instr where
  /-- READ_REGISTER, class X (R113). -/
  | readRegister (addr : Byte)
  /-- WRITE_REGISTER, class X (R114). -/
  | writeRegister (addr value : Byte)
  /-- BULK_TRANSFER, class X (R115). -/
  | bulkTransfer (cmd : Byte) (length : Half)
  /-- CONFIGURE, class I (R118). -/
  | configure
  /-- REGISTER_CHECK, class I (R122). -/
  | registerCheck
  /-- READ_FIFO_COUNT, class I (R126). -/
  | readFifoCount
  /-- FIFO_READ, class I (R128). -/
  | fifoRead (count : Half)
  /-- FIFO_RESET, class I (R134). -/
  | fifoReset
  /-- TEMPERATURE_UPDATE, class I (R136). -/
  | temperatureUpdate
  /-- TICK, class B (R141). -/
  | tick
  /-- SOFT_RESET, class I (R145). -/
  | softReset
  /-- DRDY_SIGNAL, class B (R160). -/
  | drdySignal
  /-- TIMER_EXPIRE, class B (R161). -/
  | timerExpire
  /-- CMD_START, class B (R163). -/
  | cmdStart
  /-- CMD_STOP, class B (R164). -/
  | cmdStop
  /-- CMD_RESET, class B (R165). -/
  | cmdReset
  /-- CMD_PRINT_DIAGNOSTICS, class B (R166). -/
  | cmdPrintDiagnostics
  deriving DecidableEq, Repr, Inhabited

/-- The class of an operation: boundary (B), engine-internal (I) or bus (X) (R84). -/
inductive OpClass where
  | boundary
  | internal
  | bus
  deriving DecidableEq, Repr, Inhabited

/-- Why a word decodes to nothing (R85). -/
inductive InvalidReason where
  /-- The opcode is not in the table of R84. -/
  | reservedOpcode
  /-- A field the operation does not use is not 0. -/
  | nonZeroReserved
  /-- An operand is outside its range. -/
  | operandRange
  deriving DecidableEq, Repr, Inhabited

end Sys2Proof
end

