-- ==== Sys2Proof/Machine/State.lean ====
section
/-!
DEFINITION. The state of the block (10_state.md), the ways a step can stop, and the state at creation. Plain data.
-/

namespace Sys2Proof.Machine

/-- The engine context `ctx`: the fields only the acquisition task writes (R21, R22). -/
structure Ctx where
  /-- The sequencing state (R23). -/
  state : AcqState
  /-- The round-robin verification index (R33). -/
  cursor : Nat
  /-- Whether the data-ready interrupt path is enabled (R27). -/
  drdyEnabled : Bool
  /-- Whether the fallback timer may request ticks (R28). -/
  timerEnabled : Bool
  /-- The fatal InitializationTimeout (R29). -/
  initFailed : Bool
  /-- The reset timestamp (R35). -/
  tReset : Option Time
  /-- The last-configuration-check timestamp (R36). -/
  tCfgCheck : Option Time
  /-- The last-data-ready timestamp (R37). -/
  tDrdy : Option Time
  /-- The last-temperature-update timestamp (R38). -/
  tTemp : Option Time
  /-- The time of the most recent tick or harness operation (R39). -/
  tLastTick : Option Time
  cntBadRegister : Counter
  cntBadTransfer : Counter
  cntFifoEmpty : Counter
  cntFifoOverflow : Counter
  cntFifoReset : Counter
  /-- Consecutive failed Configure attempts (R42). -/
  configFailStreak : Nat
  /-- Consecutive FIFO_READ ticks with a bus error (R43). -/
  busErrorStreak : Nat
  /-- Consecutive FifoReads that ended in a bad frame or a bad length (R44). -/
  badframeStreak : Nat
  /-- The last temperature read (R48). -/
  tempRaw : Option Half
  /-- Its converted value (R48). -/
  temperature : Option Phys
  /-- The time between the two most recent consumed data-ready events (R49). -/
  drdyIntervalLast : Option Time
  deriving DecidableEq, Repr

/-- The two cells the callback context writes (R45, R46). -/
structure Shared where
  /-- The pending-sample count, saturating (R45). -/
  pending : BitVec 32
  /-- The tick request (R46). -/
  tickRequested : Bool
  deriving DecidableEq, Repr

/-- The output history (R50, R51, R57), each list append-only, and the model's record of what the last operation issued on
its own returned (log entry 8). -/
structure Out where
  batches : List Batch
  diagnostics : List Snapshot
  busLog : List BusEvent
  lastOutcome : Option OpOutcome
  deriving DecidableEq, Repr

/-- The environment's side of the run, which no rule of the block reads: the program lines not yet taken, the annotations in
force (R107), and the counters that make every free draw a fresh value (log entries 2, 3, 6). The model's own. -/
structure Env where
  program : List ProgramLine
  time : Option Time
  answers : List BusAnswer
  opDraws : Nat
  busDraws : Nat
  timeDraws : Nat
  deriving DecidableEq, Repr

/-- The whole state: the parameters (constant), the context, the shared cells, the outputs, the set of model faults raised
(R53, a list without repeats), and the environment. -/
structure State where
  cfg : Params
  ctx : Ctx
  shared : Shared
  out : Out
  faults : List FaultKind
  env : Env
  deriving DecidableEq, Repr

/-- The context at creation (R55; D54 errs toward proving if the original waits for a first timer event). -/
def Ctx.created : Ctx where
  state := .reset
  cursor := 0
  drdyEnabled := false
  timerEnabled := true
  initFailed := false
  tReset := none
  tCfgCheck := none
  tDrdy := none
  tTemp := none
  tLastTick := none
  cntBadRegister := 0#64
  cntBadTransfer := 0#64
  cntFifoEmpty := 0#64
  cntFifoOverflow := 0#64
  cntFifoReset := 0#64
  configFailStreak := 0
  busErrorStreak := 0
  badframeStreak := 0
  tempRaw := none
  temperature := none
  drdyIntervalLast := none

/-- An environment with nothing placed in it and no draw made (DESIGN CHOICE, log entries 2, 3, 6). -/
def Env.created : Env where
  program := []
  time := none
  answers := []
  opDraws := 0
  busDraws := 0
  timeDraws := 0

/-- The state at creation under a parameter set (R55, R199). -/
def State.create (p : Params) : State where
  cfg := p
  ctx := Ctx.created
  shared := { pending := 0#32, tickRequested := true }
  out := { batches := [], diagnostics := [], busLog := [], lastOutcome := none }
  faults := []
  env := Env.created

/-- The machine right after reset: creation (R55) under the spec's own example parameters (DESIGN CHOICE, log entry 1). -/
def State.reset : State := State.create Params.vectors

/-- The faults: the model faults of R178, each with its information and the state it leaves (whose fault set holds its kind),
and the halt they cause. All are safe: the model stops where the spec gives no meaning. -/
inductive Fault where
  /-- Raised by a tick or a harness operation that draws `now < t_last_tick` (R140). Safe. -/
  | clockRegression (prev now : Time) (left : State)
  /-- Raised by a FifoRead whose oldest timestamp would be below 0 (R128). Safe. -/
  | timestampUnderflow (t : Time) (n interval : Nat) (left : State)
  /-- Raised by a bulk transfer longer than SCRATCH_SIZE (R115). Safe. -/
  | scratchOverflow (length : Nat) (left : State)
  /-- Raised by `step` in a state whose fault set is not empty: such a state has no further step (R53). Safe. -/
  | halted (faults : List FaultKind)
  deriving DecidableEq, Repr

/-- The refusals (R179). Each is the spec's own; a refused word has no step. -/
inductive Refusal where
  /-- Raised by an arm of `exec` whose instruction has no meaning yet; no arm is left. Safe. -/
  | notModelled (mnemonic : String)
  /-- Raised by `step` when the parameter set fails a check of R13 or R10, before any step. Safe. -/
  | illFormedParameters (failing : ParamCheck)
  /-- Raised by `step` for a word that decodes to no operation (R85, R87). Safe. -/
  | invalidWord (reason : InvalidReason)
  /-- Raised by the meaning of a class I or X operation outside HARNESS_MODE (R86). Safe. -/
  | internalOperation
  deriving DecidableEq, Repr

end Sys2Proof.Machine
end

