-- ==== Sys2Proof/Machine/Flags.lean ====
section
/-!
DEFINITION. The block has no condition codes (R26): this file holds what stands in their place, saturating arithmetic, the
accounting counters, and the codes of states, outcomes and error classes.
-/

namespace Sys2Proof.Machine

/-! ## Saturating arithmetic (R14, R45) -/

/-- `satinc_w(c)`: `c + 1` below `2^w − 1`, else `c` (R14; D8 errs neither way). -/
def satInc {w : Nat} (c : BitVec w) : BitVec w := if c.toNat < 2 ^ w - 1 then c + 1#w else c

/-- `min(pending + n, 2^32 − 1)`, the value of `atomic_add_sat32` (R78). -/
def satAdd32 (pending : BitVec 32) (n : Nat) : BitVec 32 := BitVec.ofNat 32 (min (pending.toNat + n) (2 ^ 32 - 1))

/-! ## Accounting counters (R40, R41; D40 errs toward proving if the original clears them on the internal soft reset) -/

/-- One unsatisfied entry was read (R41; D19 errs toward unprovable for a claim of exactly one increment per Configure). -/
def State.countBadRegister (s : State) : State :=
  { s with ctx.cntBadRegister := satInc s.ctx.cntBadRegister }

/-- A FIFO bulk transfer failed, had a bad length or a bad frame (R41; D41 errs toward unprovable for a claim that it counts
only parse errors). -/
def State.countBadTransfer (s : State) : State :=
  { s with ctx.cntBadTransfer := satInc s.ctx.cntBadTransfer }

/-- The FIFO count was zero (R41). -/
def State.countFifoEmpty (s : State) : State :=
  { s with ctx.cntFifoEmpty := satInc s.ctx.cntFifoEmpty }

/-- The FIFO count exceeded the capacity (R41). -/
def State.countFifoOverflow (s : State) : State :=
  { s with ctx.cntFifoOverflow := satInc s.ctx.cntFifoOverflow }

/-- A flush write succeeded (R41). -/
def State.countFifoReset (s : State) : State :=
  { s with ctx.cntFifoReset := satInc s.ctx.cntFifoReset }

/-! ## State codes (R101; D62 errs neither way) -/

/-- The 3-bit code of an acquisition state. -/
def stateCode : AcqState → BitVec 3
  | .reset => 0#3
  | .waitForReset => 1#3
  | .configure => 2#3
  | .fifoRead => 3#3
  | .requestStop => 4#3
  | .stopped => 5#3

/-- The state of a code; codes 6 and 7 are refused (R101, U24). -/
def stateOfCode (c : BitVec 3) : Option AcqState :=
  match c.toNat with
  | 0 => some .reset
  | 1 => some .waitForReset
  | 2 => some .configure
  | 3 => some .fifoRead
  | 4 => some .requestStop
  | 5 => some .stopped
  | _ => none

/-! ## Error classes and outcome codes (R103, R104; D62 errs neither way) -/

/-- The code of an error class (R103). -/
def errorCode : ErrorClass → Nat
  | .busError => 1
  | .configMismatch => 2
  | .badFrame => 3
  | .overflow => 4
  | .initializationTimeout => 5
  | .badLength => 6
  | .fifoEmpty => 7

/-- The code of a bus result (R104). -/
def BusResult.code : BusResult → Nat
  | .ok _ => 0
  | .busError => 1

/-- The code of a Configure outcome (R104). -/
def ConfigureOutcome.code : ConfigureOutcome → Nat
  | .success => 0
  | .failBusError => 1
  | .failMismatch => 2

/-- The code of a RegisterCheck outcome (R104). -/
def CheckOutcome.code : CheckOutcome → Nat
  | .matched => 0
  | .busErr => 1
  | .mismatch => 2

/-- The code of a ReadFifoCount outcome (R104). -/
def CountOutcome.code : CountOutcome → Nat
  | .count _ => 0
  | .busErr => 1
  | .overflow => 4
  | .empty => 7

/-- The code of a FifoRead outcome (R104). -/
def FifoReadOutcome.code : FifoReadOutcome → Nat
  | .ok => 0
  | .busErr => 1
  | .badFrame _ => 3
  | .badLength => 6

/-- The code of an `Ok | BusErr` outcome (R104). -/
def UnitOutcome.code : UnitOutcome → Nat
  | .ok => 0
  | .busErr => 1

/-- The code of an operation's outcome (R104). -/
def OpOutcome.code : OpOutcome → Nat
  | .readRegister r => r.code
  | .writeRegister r => r.code
  | .bulkTransfer r => r.code
  | .configure r => r.code
  | .registerCheck r => r.code
  | .readFifoCount r => r.code
  | .fifoRead r => r.code
  | .fifoReset r => r.code
  | .temperatureUpdate r => r.code
  | .softReset r => r.code

/-- The error class a bus result reports (R171). -/
def BusResult.errorClass : BusResult → Option ErrorClass
  | .ok _ => none
  | .busError => some .busError

/-- The error class an `Ok | BusErr` outcome reports (R171). -/
def UnitOutcome.errorClass : UnitOutcome → Option ErrorClass
  | .ok => none
  | .busErr => some .busError

/-- The error class an operation's outcome reports, if any (R171 to R174, R176, R177). -/
def OpOutcome.errorClass : OpOutcome → Option ErrorClass
  | .readRegister r => r.errorClass
  | .writeRegister r => r.errorClass
  | .bulkTransfer r => r.errorClass
  | .configure .success => none
  | .configure .failBusError => some .busError
  | .configure .failMismatch => some .configMismatch
  | .registerCheck .matched => none
  | .registerCheck .mismatch => some .configMismatch
  | .registerCheck .busErr => some .busError
  | .readFifoCount (.count _) => none
  | .readFifoCount .empty => some .fifoEmpty
  | .readFifoCount .overflow => some .overflow
  | .readFifoCount .busErr => some .busError
  | .fifoRead .ok => none
  | .fifoRead (.badFrame _) => some .badFrame
  | .fifoRead .badLength => some .badLength
  | .fifoRead .busErr => some .busError
  | .fifoReset r => r.errorClass
  | .temperatureUpdate r => r.errorClass
  | .softReset r => r.errorClass

end Sys2Proof.Machine
end

