-- ==== Sys2Proof/Machine/Params.lean ====
section
/-!
DEFINITION. What is computed from the parameters: the well-formedness checks of R13 and R10, the size of the scratch buffer, the class
of a tag and the interval field of a batch.
-/

namespace Sys2Proof

/-- SCRATCH_SIZE (R47; D55 errs neither way in normal mode). -/
def Params.scratchSize (p : Params) : Nat := hdrSize + p.maxSamples * frameSize

/-- One entry's masks do not overlap (R31; D58 errs neither way on duplicate registers, which are allowed). -/
def masksDisjoint (e : RegisterConfigEntry) : Bool := e.setBits &&& e.clearBits == 0x00#8

/-- Whether a parameter set passes one check: those of R13 (D7 errs toward proving only for sets the block would misbehave on),
and the bound of R10 that R13 does not list (DEDUCED, log entry 15). -/
def Params.passes (p : Params) : ParamCheck → Bool
  | .tableNotEmpty => decide (1 ≤ p.table.length)
  | .masksDisjoint => p.table.all masksDisjoint
  | .devFifoCapPositive => decide (1 ≤ p.devFifoCap)
  | .consBatchCapPositive => decide (1 ≤ p.consBatchCap)
  | .sampleIntervalPositive => decide (1 ≤ p.sampleIntervalUs)
  | .watermarkPositive => decide (1 ≤ p.watermarkSamples)
  | .resetWaitCoversSettle => decide (p.settleMinUs ≤ p.resetMaxWaitUs)
  | .fifoCountDivPositive => decide (1 ≤ p.fifoCountDiv)
  | .fifoCapacityFitsCount => decide (p.devFifoCap * p.fifoCountDiv ≤ 0xFFFF)
  | .bulkBlockFitsLength => decide (p.scratchSize ≤ 0xFFFF)
  | .configAttemptMaxPositive => decide (1 ≤ p.configAttemptMax)
  | .busErrorThresholdPositive => decide (1 ≤ p.busErrorResetThreshold)
  | .badframeThresholdPositive => decide (1 ≤ p.badframeResetThreshold)
  | .tempIntervalPositive => decide (1 ≤ p.tempIntervalUs)

/-- The checks: those of R13 in its order, then the bound that R10 alone gives. -/
def paramChecks : List ParamCheck :=
  [.tableNotEmpty, .masksDisjoint, .devFifoCapPositive, .consBatchCapPositive, .sampleIntervalPositive,
    .watermarkPositive, .resetWaitCoversSettle, .fifoCountDivPositive, .fifoCapacityFitsCount, .bulkBlockFitsLength,
    .configAttemptMaxPositive, .busErrorThresholdPositive, .badframeThresholdPositive,
    .tempIntervalPositive]

/-- The check that names the refusal of a parameter set (R179). Where a set fails several, R13 and R179 do not say which names
it, and the model takes the first in the order of `paramChecks` (DESIGN CHOICE, log entry 19). -/
def Params.firstFailing (p : Params) : Option ParamCheck := paramChecks.find? fun c => !p.passes c

/-- A well-formed parameter set: it passes every check of R13 and R10. -/
def Params.wf (p : Params) : Bool := paramChecks.all p.passes

/-- TagClass (R10, R90). -/
def Params.tagClass (p : Params) (tag : Byte) : TagClass := (p.tagClasses.lookup tag).getD .invalid

/-- The interval field of a batch, `UInt64 = SAMPLE_INTERVAL_US` (R99); a free value where the parameter does not fit. -/
def Params.intervalField (p : Params) : Time :=
  if p.sampleIntervalUs < 2 ^ 64 then BitVec.ofNat 64 p.sampleIntervalUs else Config.wideInterval p.sampleIntervalUs

end Sys2Proof
end

