-- ==== Sys2Proof/Machine/Operands.lean ====
section
/-!
DEFINITION. The forms in which values reach the operations: register pairs, masks and write values, frames and axis values,
timestamps and elapsed time, and the image of a table entry.
-/

namespace Sys2Proof.Machine

/-! ## Register pairs and bytes (R64, R96, R98) -/

/-- `zext_16(hi) << 8 | zext_16(lo)`: little-endian, the byte at the lower offset less significant (R64, R96, R98; D11 errs
toward unprovable, since torn values are admitted). -/
def pair (lo hi : Byte) : Half := hi.setWidth 16 <<< 8 ||| lo.setWidth 16

/-! ## Table entries (R32, R100, R118) -/

/-- `Satisfied(e, r)`: set bits present, clear bits absent; bits in neither mask are not compared (R32). -/
def satisfied (e : RegisterConfigEntry) (r : Byte) : Bool :=
  r &&& e.setBits == e.setBits && r &&& e.clearBits == 0x00#8

/-- The value Configure writes: `(base & ~clear) | set` (R118, R119). -/
def configValue (e : RegisterConfigEntry) (base : Byte) : Byte := base &&& ~~~e.clearBits ||| e.setBits

/-- The 24-bit image of a table entry, `reg << 16 | set << 8 | clear` (R100). -/
def entryImage (e : RegisterConfigEntry) : BitVec 24 :=
  e.reg.setWidth 24 <<< 16 ||| e.setBits.setWidth 24 <<< 8 ||| e.clearBits.setWidth 24

/-- The image of a table: its entries' images in table order (R100). -/
def tableImage (t : List RegisterConfigEntry) : List (BitVec 24) := t.map entryImage

/-! ## Frames (R88 to R93; D12 errs toward proving for a device with another layout, D13 for one that needs another filler) -/

/-- Bytes of the bulk block of a drain of `n` frames: `HDR_SIZE + n × FRAME_SIZE` (R93, R105, R128). -/
def blockLength (n : Nat) : Nat := hdrSize + n * frameSize

/-- `buf[HDR_SIZE + k × FRAME_SIZE ..+ FRAME_SIZE]`, frame `k` of a block (R93, R128). -/
def frameAt (buf : List Byte) (k : Nat) : List Byte := (buf.drop (hdrSize + k * frameSize)).take frameSize

/-- Byte `i` of a frame; every frame read has FRAME_SIZE bytes once the block's length is validated (R132). -/
def frameByte (f : List Byte) (i : Nat) : Byte := f.getD i 0x00#8

/-- Frame `k`'s raw axis values, each low byte first, tag at offset 0 (R89, R91). -/
def rawSample (k : Nat) (f : List Byte) : RawSample where
  k := k
  x := pair (frameByte f 1) (frameByte f 2)
  y := pair (frameByte f 3) (frameByte f 4)
  z := pair (frameByte f 5) (frameByte f 6)

/-- The validated frames of a block from frame `k` on, with `left` frames to go, and the index of the first bad frame if one
stops the scan; a frame after a bad one is never parsed (R128, R130). NotReady and Invalid are treated alike (R90). -/
def scanFrames (p : Params) (buf : List Byte) : (left k : Nat) → List RawSample × Option Nat
  | 0, _ => ([], none)
  | left + 1, k =>
    match p.tagClass (frameByte (frameAt buf k) 0) with
    | .valid => (rawSample k (frameAt buf k) :: (scanFrames p buf left (k + 1)).1, (scanFrames p buf left (k + 1)).2)
    | .notReady => ([], some k)
    | .invalid => ([], some k)

/-- ScaleAxis of a raw axis value, sign-extended to 32 bits first (R91, R92). The three lanes use the same function (R133). -/
def scaled (raw : Half) : Phys := Config.scaleAxis (raw.signExtend 32)

/-! ## Time (R14, R34, R129) -/

/-- `now − since` in microseconds. The spec never subtracts below 0 here, by R140; in a state no run reaches, where `since`
lies after `now`, the answer is 0 (DESIGN CHOICE, log entry 10). -/
def elapsed (now since : Time) : Nat := now.toNat - since.toNat

/-- `now − t` for an optional timestamp. Where R167 says the timestamp is never `none`, a state no run reaches may still hold
`none`, and the answer is 0 (DESIGN CHOICE, log entry 10). -/
def elapsedOpt (now : Time) : Option Time → Nat
  | none => 0
  | some t => elapsed now t

/-- `t = none or now − t ≥ interval`: a periodic action is due (R152, R156). -/
def due (interval : Nat) (now : Time) : Option Time → Bool
  | none => true
  | some t => decide (interval ≤ elapsed now t)

/-- The oldest timestamp of a batch of `n` samples would be below 0: `T < (N − 1) × I` (R128). -/
def underflows (t : Time) (n interval : Nat) : Bool := decide (t.toNat < (n - 1) * interval)

/-- The timestamp of the sample from frame `k`: `T − (N − 1 − k) × I` (R129; D45 errs toward proving if the original re-times
a truncated batch to the valid count). -/
def sampleTime (t : Time) (n interval k : Nat) : Time := BitVec.ofNat 64 (t.toNat - (n - 1 - k) * interval)

/-- The sample emitted for a validated frame (R99, R128; D15 errs neither way). -/
def sampleOf (p : Params) (t : Time) (n : Nat) (r : RawSample) : Sample where
  t := sampleTime t n p.sampleIntervalUs r.k
  rawX := r.x
  rawY := r.y
  rawZ := r.z
  x := scaled r.x
  y := scaled r.y
  z := scaled r.z

/-- The batch emitted for the validated frames of a block of `n` frames (R99, R128). -/
def batchOf (p : Params) (t : Time) (n : Nat) (valid : List RawSample) : Batch where
  samples := valid.map (sampleOf p t n)
  interval := p.intervalField

end Sys2Proof.Machine
end

