-- ==== Sys2Proof/Machine/Ops.lean ====
section
/-!
DEFINITION. The named operations over the state: the callback steps, one bus transaction, the clock draw, raising a model
fault, the shared procedures EnterReset and Fatal, and the frame of an operation issued on its own. The block has no trap and
no return from one (R189, R190): what stands in their place is `State.raise`, the model fault of R178.
-/

namespace Sys2Proof.Machine

/-- The outcome of a step. -/
abbrev Result := Host.Outcome State Fault Refusal

/-! ## The shared cells (R78; D49 errs toward proving on hardware with a weaker order of the two cells) -/

/-- `atomic_set(tick_requested)` (R78). -/
def State.requestTick (s : State) : State := { s with shared.tickRequested := true }

/-- The write of `atomic_exchange(pending, 0)` (R78). -/
def State.clearPending (s : State) : State := { s with shared.pending := 0#32 }

/-- DrdySignal: while the line is enabled, the watermark is added to `pending` and a tick is requested; a masked edge is lost
(R160, R181; D32 errs toward proving if masked edges are latched in the original). -/
def State.drdySignal (s : State) : State :=
  if s.ctx.drdyEnabled then
    { s with shared := { pending := satAdd32 s.shared.pending s.cfg.watermarkSamples, tickRequested := true } }
  else s

/-- TimerExpire: while the timer is enabled, a tick is requested (R161, R182; D33 errs toward unprovable: any timing of timer
events is admitted). -/
def State.timerExpire (s : State) : State :=
  if s.ctx.timerEnabled then s.requestTick else s

/-- One step of the callback context (R20). -/
def State.callback (s : State) : Callback → State
  | .drdy => s.drdySignal
  | .timer => s.timerExpire

/-- Callback steps one after another. -/
def State.deliver (s : State) (events : List Callback) : State := events.foldl State.callback s

/-! ## One bus transaction (R73, R110, R111; D9 errs toward unprovable: a claim that needs a device needs a device assumption) -/

/-- The bytes the block transmits: a bulk transfer sends its command and then `length − 1` filler bytes 0x00 (R94); a read
sends no data byte, a write its value. -/
def txBytes : BusRequest → List Byte
  | .read _ => []
  | .write _ value => [value]
  | .bulk cmd length => cmd :: List.replicate (length - 1) 0x00#8

/-- How many bytes a conforming transport delivers on `Ok` (R68, R110). -/
def rxLength : BusRequest → Nat
  | .read _ => 1
  | .write _ _ => 0
  | .bulk _ length => length

/-- A free answer of the transport (R110): any bytes, exactly as many as the request asks for, or a bus error; and any callback
steps meanwhile (R116). -/
def freeAnswer (draw : Nat) (r : BusRequest) : BusAnswer where
  error := Config.freeBusError draw r
  byte := Config.freeBusByte draw r 0
  block := (List.range (rxLength r)).map (Config.freeBusByte draw r)
  during := Config.freeCallbacks draw

/-- The transport's answer to the next transaction: the next annotated one (R107), else a free one. -/
def State.answer (s : State) (r : BusRequest) : BusAnswer :=
  match s.env.answers with
  | a :: _ => a
  | [] => freeAnswer s.env.busDraws r

/-- The environment after it has answered one transaction. -/
def Env.answered (e : Env) : Env :=
  match e.answers with
  | _ :: rest => { e with answers := rest }
  | [] => { e with busDraws := e.busDraws + 1 }

/-- What a read delivers: a byte, or `none` for `Err(BusError)` (R113). -/
def BusAnswer.readByte (a : BusAnswer) : Option Byte := if a.error then none else some a.byte

/-- Whether a write succeeds (R114). An `Err` says nothing of whether the device took the value (U11). -/
def BusAnswer.written (a : BusAnswer) : Bool := !a.error

/-- What a bulk transfer delivers: its bytes, or `none` for `Err(BusError)` (R68, R115). -/
def BusAnswer.bulkBytes (a : BusAnswer) : Option (List Byte) := if a.error then none else some a.block

/-- The result recorded for a request (R57). -/
def BusAnswer.result (a : BusAnswer) : BusRequest → BusResult
  | .read _ => if a.error then .busError else .ok [a.byte]
  | .write _ _ => if a.error then .busError else .ok []
  | .bulk _ _ => if a.error then .busError else .ok a.block

/-- The entry of the bus history for a request and its answer (R57, R113 to R115). -/
def busEvent (r : BusRequest) (a : BusAnswer) (state : AcqState) : BusEvent :=
  match r with
  | .read addr => { op := .readRegister, a := addr, b := 0#16, result := a.result r, state := state }
  | .write addr value => { op := .writeRegister, a := addr, b := value.setWidth 16, result := a.result r, state := state }
  | .bulk cmd length => { op := .bulkTransfer, a := cmd, b := BitVec.ofNat 16 length, result := a.result r, state := state }

/-- One transaction: the answer is drawn, the event logged, and the callback steps that fell into it delivered. Exactly one
transaction and one event, never a retry (R111); the context is not written. -/
def State.transact (s : State) (r : BusRequest) : State :=
  { s with
    out.busLog := s.out.busLog ++ [busEvent r (s.answer r) s.ctx.state]
    env := s.env.answered }.deliver (s.answer r).during

/-! ## The clock (R140; D44 errs toward unprovable: any monotonic clock is admitted) -/

/-- The value the clock gives: the annotated one (R107), else a free one (U15). -/
def State.clockValue (s : State) : Time := s.env.time.getD (Config.freeClock s.env.timeDraws)

/-- The environment after it has given one clock value. -/
def Env.clocked (e : Env) : Env :=
  match e.time with
  | some _ => { e with time := none }
  | none => { e with timeDraws := e.timeDraws + 1 }

/-- The state in which a model fault of a kind has been raised: the kind is in the fault set (R53, R178). -/
def State.raise (s : State) (k : FaultKind) : State :=
  if k ∈ s.faults then s else { s with faults := s.faults ++ [k] }

/-- The state after a clock draw. -/
def State.clocked (s : State) : State := { s with env := s.env.clocked }

/-- The state after a clock draw that is written to `t_last_tick` (R140). -/
def State.timed (s : State) : State := { s.clocked with ctx.tLastTick := some s.clockValue }

/-- The clock has not run back since the last tick or operation issued on its own: `t_last_tick = none or now ≥ t_last_tick`
(R140). -/
def clockRuns (s : State) : Bool :=
  match s.ctx.tLastTick with
  | none => true
  | some prev => decide (prev ≤ s.clockValue)

/-- Draw `now` and write it to `t_last_tick`; a clock that has run back is the fault ClockRegression (R140, U18). -/
def drawNow (s : State) : Except Fault (Time × State) :=
  match s.ctx.tLastTick with
  | none => .ok (s.clockValue, s.timed)
  | some prev =>
    if s.clockValue < prev then
      .error (.clockRegression prev s.clockValue (s.clocked.raise .clockRegression))
    else .ok (s.clockValue, s.timed)

/-! ## Shared procedures of the state machine (R144, R147) -/

/-- EnterReset: no bus transaction; counters, timestamps, `init_failed` and `timer_enabled` are kept (R144, R56; D50 errs
toward proving if the original issues the soft reset at once). -/
def State.enterReset (s : State) : State :=
  { s with
    ctx.state := .reset
    ctx.cursor := 0
    ctx.drdyEnabled := false
    ctx.configFailStreak := 0
    ctx.busErrorStreak := 0
    ctx.badframeStreak := 0
    shared.pending := 0#32 }

/-- Fatal: initialization has failed and the block stops (R147, R175; D51 errs toward proving if the original terminates the
engine entirely). -/
def State.fatal (s : State) : State :=
  { s with
    ctx.initFailed := true
    ctx.drdyEnabled := false
    ctx.timerEnabled := false
    ctx.state := .stopped
    shared.pending := 0#32 }

/-- `emit(batch)`: the batch is handed to the consumer and recorded; it never fails (R17, R50). -/
def State.emit (s : State) (b : Batch) : State := { s with out.batches := s.out.batches ++ [b] }

/-- Snapshot(ctx), in the field order of R52 (D53 errs toward proving for claims about durations, which cannot be stated). -/
def Ctx.snapshot (c : Ctx) : Snapshot where
  state := stateCode c.state
  cursor := c.cursor
  drdyEnabled := c.drdyEnabled
  timerEnabled := c.timerEnabled
  initFailed := c.initFailed
  cntBadRegister := c.cntBadRegister
  cntBadTransfer := c.cntBadTransfer
  cntFifoEmpty := c.cntFifoEmpty
  cntFifoOverflow := c.cntFifoOverflow
  cntFifoReset := c.cntFifoReset
  drdyIntervalLast := c.drdyIntervalLast
  tempRaw := c.tempRaw
  temperature := c.temperature
  configFailStreak := c.configFailStreak
  busErrorStreak := c.busErrorStreak
  badframeStreak := c.badframeStreak
  tReset := c.tReset
  tCfgCheck := c.tCfgCheck
  tDrdy := c.tDrdy
  tTemp := c.tTemp

/-! ## An operation issued on its own (R86; D47 errs neither way in normal mode) -/

/-- The model's record of the outcome an operation issued on its own returned (log entry 8). -/
def State.record (s : State) (r : OpOutcome) : State := { s with out.lastOutcome := some r }

/-- A class I or X operation issued on its own: refused outside HARNESS_MODE; in it, `now` is drawn by the clock rule and
written to `t_last_tick`, the shared cells are not consumed, and the operation runs (R86, R117, R140). -/
def issueAlone (op : Time → State → Except Fault (OpOutcome × State)) (s : State) : Result :=
  if s.cfg.harnessMode then
    match drawNow s with
    | .error f => .fault f
    | .ok (now, s1) =>
      match op now s1 with
      | .error f => .fault f
      | .ok (r, s2) => .next (s2.record r)
  else .refused .internalOperation

end Sys2Proof.Machine
end

