-- ==== Sys2Proof/Machine/Bus.lean ====
section
/-!
DEFINITION. The bus transaction primitive (41_bus.md): the three operations and the meanings of READ_REGISTER,
WRITE_REGISTER and BULK_TRANSFER.
-/

namespace Sys2Proof.Machine

/-- ReadRegister(addr): one transaction; `none` is `Err(BusError)` (R113). -/
def readRegister (addr : Byte) (s : State) : Option Byte × State :=
  ((s.answer (.read addr)).readByte, s.transact (.read addr))

/-- WriteRegister(addr, value): one transaction; `false` is `Err(BusError)` (R114). -/
def writeRegister (addr value : Byte) (s : State) : Bool × State :=
  ((s.answer (.write addr value)).written, s.transact (.write addr value))

/-- BulkTransfer(cmd, length): a length above SCRATCH_SIZE is the fault ScratchOverflow before any transaction; else one
transaction, whose bytes the caller receives; `none` is `Err(BusError)` (R115). -/
def bulkTransfer (cmd : Byte) (length : Nat) (s : State) : Except Fault (Option (List Byte) × State) :=
  if s.cfg.scratchSize < length then .error (.scratchOverflow length (s.raise .scratchOverflow))
  else .ok ((s.answer (.bulk cmd length)).bulkBytes, s.transact (.bulk cmd length))

/-- The result of a bulk transfer as R104 codes it. -/
def bulkResult : Option (List Byte) → BusResult
  | some bytes => .ok bytes
  | none => .busError

/-- READ_REGISTER (R113). -/
def execReadRegister (addr : Byte) (s : State) : Result :=
  issueAlone (fun _ s =>
    .ok (.readRegister ((s.answer (.read addr)).result (.read addr)), (readRegister addr s).2)) s

/-- WRITE_REGISTER (R114). -/
def execWriteRegister (addr value : Byte) (s : State) : Result :=
  issueAlone (fun _ s =>
    .ok (.writeRegister ((s.answer (.write addr value)).result (.write addr value)), (writeRegister addr value s).2)) s

/-- BULK_TRANSFER (R115). -/
def execBulkTransfer (cmd : Byte) (length : Half) (s : State) : Result :=
  issueAlone (fun _ s =>
    match bulkTransfer cmd length.toNat s with
    | .error f => .error f
    | .ok (bytes, s1) => .ok (.bulkTransfer (bulkResult bytes), s1)) s

end Sys2Proof.Machine
end

