-- ==== Sys2Proof/Machine/Control.lean ====
section
/-!
DEFINITION. The control surface (44_state_machine.md, section 5): the meanings of the four commands, which run on the
acquisition task between ticks (R162; D30 errs toward proving if commands can run during a tick in the original, D31 toward
proving for other command semantics).
-/

namespace Sys2Proof.Machine

/-- The five counters are set to 0: the explicit device reset, the only thing that lowers a counter (R40, R165, C6). -/
def State.clearCounters (s : State) : State :=
  { s with
    ctx.cntBadRegister := 0#64
    ctx.cntBadTransfer := 0#64
    ctx.cntFifoEmpty := 0#64
    ctx.cntFifoOverflow := 0#64
    ctx.cntFifoReset := 0#64 }

/-- The restart that CMD_START and CMD_RESET share: the failure is forgotten, the timer unmasked, a tick requested (R163,
R165). -/
def State.restarted (s : State) : State :=
  { s with ctx.initFailed := false, ctx.timerEnabled := true, shared.tickRequested := true }

/-- CMD_START: no effect outside STOPPED (R163). -/
def execCmdStart (s : State) : Result :=
  if s.ctx.state = .stopped then .next s.enterReset.restarted else .next s

/-- CMD_STOP: no effect in STOPPED (R164). -/
def execCmdStop (s : State) : Result :=
  if s.ctx.state = .stopped then .next s
  else .next { s with ctx.state := .requestStop, shared.tickRequested := true }

/-- CMD_RESET: in every state (R165). -/
def execCmdReset (s : State) : Result := .next s.enterReset.clearCounters.restarted

/-- CMD_PRINT_DIAGNOSTICS: one snapshot, nothing else (R166). -/
def execCmdPrintDiagnostics (s : State) : Result :=
  .next { s with out.diagnostics := s.out.diagnostics ++ [s.ctx.snapshot] }

end Sys2Proof.Machine
end

