-- ==== Sys2Proof/Machine/Events.lean ====
section
/-!
DEFINITION. The events of the callback context (44_state_machine.md, section 4): the meanings of DRDY_SIGNAL and TIMER_EXPIRE.
Neither issues a bus transaction (R71, R205).
-/

namespace Sys2Proof.Machine

/-- DRDY_SIGNAL (R160). -/
def execDrdySignal (s : State) : Result := .next s.drdySignal

/-- TIMER_EXPIRE (R161). -/
def execTimerExpire (s : State) : Result := .next s.timerExpire

end Sys2Proof.Machine
end

