-- ==== Sys2Proof/Machine/Fifo.lean ====
section
/-!
DEFINITION. The FIFO acquisition pipeline (43_fifo_pipeline.md): ReadFifoCount, FifoRead, FifoReset and TemperatureUpdate, and
the meanings of READ_FIFO_COUNT, FIFO_READ, FIFO_RESET and TEMPERATURE_UPDATE. None writes `ctx.state` (R24). No trailing frame
is parsed (R137; D16 errs toward proving if the original parses one).
-/

namespace Sys2Proof.Machine

/-- Read a register pair, low register first: two transactions, the second only if the first succeeds; `none` is a bus error
(R65, R96, R98). -/
def readPair (lo hi : Byte) (s : State) : Option Half × State :=
  match readRegister lo s with
  | (none, s1) => (none, s1)
  | (some l, s1) =>
    match readRegister hi s1 with
    | (none, s2) => (none, s2)
    | (some h, s2) => (some (pair l h), s2)

/-- ReadFifoCount's classification of a raw count (R97, R126, R127; D10 errs toward proving for a device that counts bytes
unless FIFO_COUNT_DIV is set). -/
def classifyCount (p : Params) (raw : Nat) : CountOutcome :=
  if p.devFifoCap * p.fifoCountDiv < raw then .overflow
  else if raw / p.fifoCountDiv = 0 then .empty
  else .count (min (raw / p.fifoCountDiv) p.maxSamples)

/-- The counter a classification increments (R41, R126). -/
def State.countOutcome (s : State) : CountOutcome → State
  | .overflow => s.countFifoOverflow
  | .empty => s.countFifoEmpty
  | .count _ => s
  | .busErr => s

/-- ReadFifoCount() (R126; D56 errs toward proving if the original counts a bad transfer on a bus error, D43 neither way). -/
def readFifoCount (s : State) : CountOutcome × State :=
  match readPair s.cfg.regFifoLenLo s.cfg.regFifoLenHi s with
  | (none, s1) => (.busErr, s1)
  | (some raw, s1) => (classifyCount s1.cfg raw.toNat, s1.countOutcome (classifyCount s1.cfg raw.toNat))

/-- The outcome of a scan (R128). -/
def scanOutcome : Option Nat → FifoReadOutcome
  | none => .ok
  | some k => .badFrame k

/-- The bad-transfer count of a scan: one if a bad frame stopped it (R128). -/
def State.countScan (s : State) : Option Nat → State
  | none => s
  | some _ => s.countBadTransfer

/-- FifoRead's parse of a received block of `n` frames: the length first (R132; D59 errs neither way with a conforming
transport), then the frames, then at most one emit, of every validated frame (R128 to R131; D46 errs neither way). -/
def parseBlock (t : Time) (n : Nat) (buf : List Byte) (s : State) : Except Fault (FifoReadOutcome × State) :=
  if buf.length ≠ blockLength n then .ok (.badLength, s.countBadTransfer)
  else
    match scanFrames s.cfg buf n 0 with
    | ([], bad) => .ok (scanOutcome bad, s.countScan bad)
    | (r :: rest, bad) =>
      if underflows t n s.cfg.sampleIntervalUs then
        .error (.timestampUnderflow t n s.cfg.sampleIntervalUs ((s.countScan bad).raise .timestampUnderflow))
      else .ok (scanOutcome bad, (s.countScan bad).emit (batchOf s.cfg t n (r :: rest)))

/-- FifoRead(T, N) (R128). -/
def fifoRead (t : Time) (n : Nat) (s : State) : Except Fault (FifoReadOutcome × State) :=
  match bulkTransfer s.cfg.regFifoData (blockLength n) s with
  | .error f => .error f
  | .ok (none, s1) => .ok (.busErr, s1.countBadTransfer)
  | .ok (some buf, s1) => parseBlock t n buf s1

/-- What a successful flush leaves: no pending samples, no bad-frame streak, one more FIFO reset (R134; D42 errs toward proving
if the original also rewrites a watermark register). -/
def State.flushed (s : State) : State := { s.clearPending with ctx.badframeStreak := 0 }.countFifoReset

/-- FifoReset(): one write; on a bus error nothing else (R134). -/
def fifoReset (s : State) : UnitOutcome × State :=
  match writeRegister s.cfg.regCmdFlush s.cfg.valFlush s with
  | (false, s1) => (.busErr, s1)
  | (true, s1) => (.ok, s1.flushed)

/-- What a successful temperature update writes (R136). -/
def State.setTemperature (s : State) (now : Time) (raw : Half) : State :=
  { s with
    ctx.tempRaw := some raw
    ctx.temperature := some (Config.tempConvert raw)
    ctx.tTemp := some now }

/-- TemperatureUpdate(now): on a bus error nothing is written (R136). -/
def temperatureUpdate (now : Time) (s : State) : UnitOutcome × State :=
  match readPair s.cfg.regTempLo s.cfg.regTempHi s with
  | (none, s1) => (.busErr, s1)
  | (some raw, s1) => (.ok, s1.setTemperature now raw)

/-- READ_FIFO_COUNT (R126). -/
def execReadFifoCount (s : State) : Result :=
  issueAlone (fun _ s => .ok (.readFifoCount (readFifoCount s).1, (readFifoCount s).2)) s

/-- FIFO_READ: the captured timestamp is the clock draw (R128). -/
def execFifoRead (count : Half) (s : State) : Result :=
  issueAlone (fun now s =>
    match fifoRead now count.toNat s with
    | .error f => .error f
    | .ok (r, s1) => .ok (.fifoRead r, s1)) s

/-- FIFO_RESET (R134). -/
def execFifoReset (s : State) : Result :=
  issueAlone (fun _ s => .ok (.fifoReset (fifoReset s).1, (fifoReset s).2)) s

/-- TEMPERATURE_UPDATE (R136). -/
def execTemperatureUpdate (s : State) : Result :=
  issueAlone (fun now s => .ok (.temperatureUpdate (temperatureUpdate now s).1, (temperatureUpdate now s).2)) s

end Sys2Proof.Machine
end

