-- ==== Sys2Proof/Machine/Verifier.lean ====
section
/-!
DEFINITION. The configuration verifier (42_config_verifier.md): Configure and RegisterCheck, and the meanings of CONFIGURE and
REGISTER_CHECK. Neither writes `ctx.state`; each reports an outcome (R24, R123).
-/

namespace Sys2Proof.Machine

/-- The base of a Configure write: the register's current value in RMW mode, zero in ZERO mode (R118). -/
def configBase (addr : Byte) (s : State) : Option Byte × State :=
  match s.cfg.configBaseMode with
  | .rmw => readRegister addr s
  | .zero => (some 0x00#8, s)

/-- One entry of phase 1: the base, then the write; `false` is a bus error (R118, R120). -/
def applyEntry (e : RegisterConfigEntry) (s : State) : Bool × State :=
  match configBase e.reg s with
  | (none, s1) => (false, s1)
  | (some base, s1) => writeRegister e.reg (configValue e base) s1

/-- Phase 1 of Configure: every entry in table order, ended by the first bus error; writes already made stay made (R118; D18
errs toward proving if the original continues past the error). -/
def applyTable : List RegisterConfigEntry → State → Bool × State
  | [], s => (true, s)
  | e :: rest, s =>
    match applyEntry e s with
    | (false, s1) => (false, s1)
    | (true, s1) => applyTable rest s1

/-- One entry of phase 2: `none` is a bus error, `some true` an unsatisfied entry, which is counted (R118). -/
def verifyEntry (e : RegisterConfigEntry) (s : State) : Option Bool × State :=
  match readRegister e.reg s with
  | (none, s1) => (none, s1)
  | (some r, s1) => if satisfied e r then (some false, s1) else (some true, s1.countBadRegister)

/-- Phase 2 of Configure: every entry read back in table order, with the number of unsatisfied entries so far; `none` is a bus
error, and the increments already made stay made (R118). -/
def verifyTable : List RegisterConfigEntry → (bad : Nat) → State → Option Nat × State
  | [], bad, s => (some bad, s)
  | e :: rest, bad, s =>
    match verifyEntry e s with
    | (none, s1) => (none, s1)
    | (some true, s1) => verifyTable rest (bad + 1) s1
    | (some false, s1) => verifyTable rest bad s1

/-- The outcome of Configure from phase 2's answer (R118). -/
def configureOutcome : Option Nat → ConfigureOutcome
  | none => .failBusError
  | some 0 => .success
  | some (_ + 1) => .failMismatch

/-- Configure(): every write precedes every readback (R118, R120). -/
def configure (s : State) : ConfigureOutcome × State :=
  match applyTable s.cfg.table s with
  | (false, s1) => (.failBusError, s1)
  | (true, s1) => (configureOutcome (verifyTable s1.cfg.table 0 s1).1, (verifyTable s1.cfg.table 0 s1).2)

/-- `TABLE[i]`. A cursor below the table length always finds an entry; outside it, in a state no run reaches, the entry is the
one at the cursor modulo the length, and of an empty table, which is refused before any step, the entry that compares nothing
(DESIGN CHOICE, log entry 10). -/
def tableEntry (t : List RegisterConfigEntry) (i : Nat) : RegisterConfigEntry :=
  t.getD (i % t.length) { reg := 0x00#8, setBits := 0x00#8, clearBits := 0x00#8 }

/-- The cursor moves on, modulo the table length (R33, R122; D20 errs toward proving if the original re-checks a failing
entry). -/
def State.advanceCursor (s : State) : State :=
  { s with ctx.cursor := (s.ctx.cursor + 1) % s.cfg.table.length }

/-- RegisterCheck(): the entry at the cursor, whose register is read after the cursor has moved on (R122; D21 errs toward
proving if the original treats a bus error as a mismatch). -/
def registerCheck (s : State) : CheckOutcome × State :=
  match readRegister (tableEntry s.cfg.table s.ctx.cursor).reg s.advanceCursor with
  | (none, s1) => (.busErr, s1)
  | (some r, s1) =>
    if satisfied (tableEntry s.cfg.table s.ctx.cursor) r then (.matched, s1) else (.mismatch, s1.countBadRegister)

/-- CONFIGURE (R118). -/
def execConfigure (s : State) : Result :=
  issueAlone (fun _ s => .ok (.configure (configure s).1, (configure s).2)) s

/-- REGISTER_CHECK (R122). -/
def execRegisterCheck (s : State) : Result :=
  issueAlone (fun _ s => .ok (.registerCheck (registerCheck s).1, (registerCheck s).2)) s

end Sys2Proof.Machine
end

