-- ==== Sys2Proof/Machine/Tick.lean ====
section
/-!
DEFINITION. The acquisition state machine (44_state_machine.md, sections 1 to 3): the tick, one arm per state, and the meanings
of TICK and SOFT_RESET.
-/

namespace Sys2Proof.Machine

/-! ## RESET (R145, R146) -/

/-- SoftReset(): one write; `ctx` is not written (R145). -/
def softReset (s : State) : UnitOutcome × State :=
  match writeRegister s.cfg.regCmdSoftreset s.cfg.valSoftreset s with
  | (false, s1) => (.busErr, s1)
  | (true, s1) => (.ok, s1)

/-- The RESET arm: a bus error keeps the state, for ever if it recurs (R146, R169, U25; D28 errs toward proving if the original
counts it or escalates). -/
def armReset (now : Time) (s : State) : State :=
  match softReset s with
  | (.busErr, s1) => s1
  | (.ok, s1) => { s1 with ctx.tReset := some now, ctx.state := .waitForReset }

/-! ## WAIT_FOR_RESET (R147, R148) -/

/-- ResetSettled(): no probe read with a zero mask; a bus error counts as not settled (R148; D27 errs toward proving for a
device that needs a status poll unless the probe is set). -/
def resetSettled (s : State) : Bool × State :=
  if s.cfg.resetProbeMask = 0x00#8 then (true, s)
  else
    match readRegister s.cfg.resetProbeReg s with
    | (none, s1) => (false, s1)
    | (some r, s1) => (r &&& s.cfg.resetProbeMask == s.cfg.resetProbeValue, s1)

/-- The WAIT_FOR_RESET arm (R147). -/
def armWait (now : Time) (s : State) : State :=
  if elapsedOpt now s.ctx.tReset < s.cfg.settleMinUs then s
  else
    match resetSettled s with
    | (true, s1) => { s1 with ctx.state := .configure, ctx.configFailStreak := 0 }
    | (false, s1) => if s1.cfg.resetMaxWaitUs < elapsedOpt now s1.ctx.tReset then s1.fatal else s1

/-! ## CONFIGURE (R149, R150) -/

/-- EnterFifoRead (R150; D37 errs toward proving if the original stalls immediately after configuration). -/
def State.enterFifoRead (s : State) (now : Time) : State :=
  { s with
    ctx.state := .fifoRead
    ctx.configFailStreak := 0
    ctx.drdyEnabled := s.cfg.drdyAvailable
    ctx.tDrdy := some now
    ctx.busErrorStreak := 0
    ctx.badframeStreak := 0 }

/-- A failed attempt: the streak grows, and at the ceiling the block resets (R149; D24). -/
def State.configFailed (s : State) : State :=
  if s.cfg.configAttemptMax ≤ s.ctx.configFailStreak + 1 then
    { s with ctx.configFailStreak := s.ctx.configFailStreak + 1 }.enterReset
  else { s with ctx.configFailStreak := s.ctx.configFailStreak + 1 }

/-- The CONFIGURE arm: a bus error and a mismatch count alike (R149). -/
def armConfigure (now : Time) (s : State) : State :=
  match configure s with
  | (.success, s1) => s1.enterFifoRead now
  | (.failBusError, s1) => s1.configFailed
  | (.failMismatch, s1) => s1.configFailed

/-! ## FIFO_READ (R151 to R157) -/

/-- `t_cfg_check <- now` (R151, R36). -/
def State.noteCfgCheck (s : State) (now : Time) : State := { s with ctx.tCfgCheck := some now }

/-- Step 1, the register check, when due: `t_cfg_check` is written and RegisterCheck runs (R151, R152; D39). A check that is not
due counts as no mismatch and no bus error. -/
def checkStep (now : Time) (s : State) : CheckOutcome × State :=
  if due s.cfg.cfgCheckIntervalUs now s.ctx.tCfgCheck then
    registerCheck (s.noteCfgCheck now)
  else (.matched, s)

/-- A mismatch moves the block to CONFIGURE at once (R153, C1; D22 errs neither way given C1); the cursor survives unless
CURSOR_RESET_ON_CONFIGURE is set (R125; D23). -/
def State.reconfigure (s : State) : State :=
  { s with
    ctx.state := .configure
    ctx.cursor := if s.cfg.cursorResetOnConfigure then 0 else s.ctx.cursor }

/-- A stall: the data-ready path is enabled, the tick consumed no event, and more than 2 × the expected interval has passed
since the last (R154; D35 errs toward proving for a `≥` comparison). -/
def stalled (now : Time) (drdySeen : Bool) (s : State) : Bool :=
  s.ctx.drdyEnabled && !drdySeen && decide (stallFactor * s.cfg.drdyExpectedIntervalUs < elapsedOpt now s.ctx.tDrdy)

/-- FIFO work is due: the path is disabled, an event was consumed, or a stall is detected (R154; D64 errs toward proving if the
original reads the FIFO on every timer tick). -/
def fifoWorkDue (now : Time) (drdySeen : Bool) (s : State) : Bool :=
  !s.ctx.drdyEnabled || drdySeen || stalled now drdySeen s

/-- A FifoReset run for its recovery: its bus error ends the tick's bus activity (R155). -/
def flushStep (s : State) : Bool × State :=
  match fifoReset s with
  | (.ok, s1) => (false, s1)
  | (.busErr, s1) => (true, s1)

/-- The streak of bad batches after one more (R155). -/
def State.badBatch (s : State) : State := { s with ctx.badframeStreak := s.ctx.badframeStreak + 1 }

/-- A bad batch: the streak grows, and at the threshold a FifoReset runs in the same tick (R155; D26). -/
def badBatchStep (s : State) : Bool × State :=
  if s.cfg.badframeResetThreshold ≤ s.ctx.badframeStreak + 1 then flushStep s.badBatch else (false, s.badBatch)

/-- What the arm does with FifoRead's outcome; the flag says whether a bus error occurred (R151, R155). -/
def fifoReadStep (now : Time) (n : Nat) (s : State) : Except Fault (Bool × State) :=
  match fifoRead now n s with
  | .error f => .error f
  | .ok (.ok, s1) => .ok (false, { s1 with ctx.badframeStreak := 0 })
  | .ok (.busErr, s1) => .ok (true, s1)
  | .ok (.badFrame _, s1) => .ok (badBatchStep s1)
  | .ok (.badLength, s1) => .ok (badBatchStep s1)

/-- FIFO work: the count, then a read, a flush or nothing (R151, R155). -/
def fifoWork (now : Time) (s : State) : Except Fault (Bool × State) :=
  match readFifoCount s with
  | (.busErr, s1) => .ok (true, s1)
  | (.empty, s1) => .ok (false, s1)
  | (.overflow, s1) => .ok (flushStep s1)
  | (.count n, s1) => fifoReadStep now n s1

/-- The stall's mark: `t_drdy <- now`, as if signalled (R154). -/
def State.markStall (s : State) (now : Time) (drdySeen : Bool) : State :=
  { s with ctx.tDrdy := if stalled now drdySeen s then some now else s.ctx.tDrdy }

/-- Step 2, the FIFO work when due (R151, R154). -/
def fifoStep (now : Time) (drdySeen : Bool) (s : State) : Except Fault (Bool × State) :=
  if fifoWorkDue now drdySeen s then fifoWork now (s.markStall now drdySeen) else .ok (false, s)

/-- Step 3, the temperature update when due and no bus error has occurred (R151, R156; D38 errs toward proving if the original
runs it from its own timer). -/
def temperatureStep (now : Time) (busErr : Bool) (s : State) : Bool × State :=
  if !busErr && due s.cfg.tempIntervalUs now s.ctx.tTemp then
    match temperatureUpdate now s with
    | (.ok, s1) => (false, s1)
    | (.busErr, s1) => (true, s1)
  else (busErr, s)

/-- Step 4, the bus-error accounting: one increment per tick with a bus error, a reset at the threshold, zero otherwise (R157;
D57 errs toward proving if the original counts each failed transaction, D25). -/
def State.accountBusError (s : State) (busErr : Bool) : State :=
  if busErr then
    if s.cfg.busErrorResetThreshold ≤ s.ctx.busErrorStreak + 1 then
      { s with ctx.busErrorStreak := s.ctx.busErrorStreak + 1 }.enterReset
    else { s with ctx.busErrorStreak := s.ctx.busErrorStreak + 1 }
  else { s with ctx.busErrorStreak := 0 }

/-- Steps 3 and 4, which end every FIFO_READ tick that no mismatch ended (R151). -/
def finishFifoRead (now : Time) (busErr : Bool) (s : State) : State :=
  (temperatureStep now busErr s).2.accountBusError (temperatureStep now busErr s).1

/-- The FIFO_READ arm (R151, R186): a mismatch ends the tick; a bus error skips the rest of its bus activity. -/
def armFifoRead (now : Time) (drdySeen : Bool) (s : State) : Except Fault State :=
  match checkStep now s with
  | (.mismatch, s1) => .ok s1.reconfigure
  | (.busErr, s1) => .ok (finishFifoRead now true s1)
  | (.matched, s1) =>
    match fifoStep now drdySeen s1 with
    | .error f => .error f
    | .ok (busErr, s2) => .ok (finishFifoRead now busErr s2)

/-! ## REQUEST_STOP (R158) -/

/-- The REQUEST_STOP arm: both event sources masked, no bus transaction (R158; D52 errs toward proving if the original writes a
device interrupt register). -/
def armRequestStop (s : State) : State :=
  { s with
    ctx.drdyEnabled := false
    ctx.timerEnabled := false
    ctx.state := .stopped
    shared.pending := 0#32 }

/-! ## The tick (R138 to R143) -/

/-- Whether the tick consumes a data-ready event (R141, R142). -/
def drdyPending (s : State) : Bool := decide (0 < s.shared.pending.toNat)

/-- The bookkeeping of a tick that consumed a data-ready event: the interval since the last one, then the time (R142, R49;
D53). -/
def Ctx.noteDrdy (c : Ctx) (now : Time) : Ctx :=
  { c with
    drdyIntervalLast := match c.tDrdy with
      | none => c.drdyIntervalLast
      | some t => some (now - t)
    tDrdy := some now }

/-- `pending` is consumed, and noted if it held an event; its magnitude is not used (R141, R142; D32, D34). -/
def State.consumePending (s : State) (now : Time) : State :=
  { s with
    ctx := if drdyPending s then s.ctx.noteDrdy now else s.ctx
    shared.pending := 0#32 }

/-- The arm of the state the tick started in, and no other (R143; D29 errs toward proving if the original chains arms in one
tick). A tick in STOPPED does nothing more (R159; D63 errs neither way). -/
def runArm (now : Time) (drdySeen : Bool) (s : State) : Except Fault State :=
  match s.ctx.state with
  | .reset => .ok (armReset now s)
  | .waitForReset => .ok (armWait now s)
  | .configure => .ok (armConfigure now s)
  | .fifoRead => armFifoRead now drdySeen s
  | .requestStop => .ok (armRequestStop s)
  | .stopped => .ok s

/-- A requested tick, to completion (R25, R141): the request is cleared, `now` is drawn, `pending` is consumed, the arm runs.
A request that a callback step makes meanwhile survives (R141). -/
def runTick (s : State) : Except Fault State :=
  match drawNow { s with shared.tickRequested := false } with
  | .error f => .error f
  | .ok (now, s1) => runArm now (drdyPending s1) (s1.consumePending now)

/-- A task step as an outcome. -/
def taskResult : Except Fault State → Result
  | .ok s => .next s
  | .error f => .fault f

/-- TICK (R141). With no request the task has no step: it waits, and the state is unchanged (R139; D48 errs toward proving if
spurious ticks occur in the original; log entry 7). -/
def execTick (s : State) : Result :=
  if s.shared.tickRequested then taskResult (runTick s) else .next s

/-- SOFT_RESET (R145). -/
def execSoftReset (s : State) : Result :=
  issueAlone (fun _ s => .ok (.softReset (softReset s).1, (softReset s).2)) s

end Sys2Proof.Machine
end

