-- ==== Sys2Proof/Machine/Dispatch.lean ====
section
/-!
DEFINITION. One arm per operation, each one call of its meaning.
-/

namespace Sys2Proof.Machine

def exec (i : Instr) (s : State) : Host.Outcome State Fault Refusal :=
  match i with
  | .readRegister addr => Sys2Proof.Machine.execReadRegister addr s
  | .writeRegister addr value => Sys2Proof.Machine.execWriteRegister addr value s
  | .bulkTransfer cmd length => Sys2Proof.Machine.execBulkTransfer cmd length s
  | .configure => Sys2Proof.Machine.execConfigure s
  | .registerCheck => Sys2Proof.Machine.execRegisterCheck s
  | .readFifoCount => Sys2Proof.Machine.execReadFifoCount s
  | .fifoRead count => Sys2Proof.Machine.execFifoRead count s
  | .fifoReset => Sys2Proof.Machine.execFifoReset s
  | .temperatureUpdate => Sys2Proof.Machine.execTemperatureUpdate s
  | .tick => Sys2Proof.Machine.execTick s
  | .softReset => Sys2Proof.Machine.execSoftReset s
  | .drdySignal => Sys2Proof.Machine.execDrdySignal s
  | .timerExpire => Sys2Proof.Machine.execTimerExpire s
  | .cmdStart => Sys2Proof.Machine.execCmdStart s
  | .cmdStop => Sys2Proof.Machine.execCmdStop s
  | .cmdReset => Sys2Proof.Machine.execCmdReset s
  | .cmdPrintDiagnostics => Sys2Proof.Machine.execCmdPrintDiagnostics s

end Sys2Proof.Machine
end

