-- ==== Sys2Proof/WellFormed.lean ====
section
/-!
DEFINITION. The operand ranges of R85, as a check on an instruction. They depend on the parameters, since FIFO_READ's count
is bounded by the two capacities.
-/

namespace Sys2Proof

/-- An instruction whose operands lie in the ranges of R85 (D60 errs neither way in normal mode). Every operand that is a
byte or a 16-bit value has its width by its type. -/
def WellFormed (p : Params) : Instr → Bool
  | .readRegister _ => true
  | .writeRegister _ _ => true
  | .bulkTransfer _ length => decide (1 ≤ length.toNat)
  | .configure => true
  | .registerCheck => true
  | .readFifoCount => true
  | .fifoRead count => decide (1 ≤ count.toNat ∧ count.toNat ≤ p.maxSamples)
  | .fifoReset => true
  | .temperatureUpdate => true
  | .tick => true
  | .softReset => true
  | .drdySignal => true
  | .timerExpire => true
  | .cmdStart => true
  | .cmdStop => true
  | .cmdReset => true
  | .cmdPrintDiagnostics => true

end Sys2Proof
end

