-- ==== Sys2Proof/Decode.lean ====
section
/-!
DEFINITION. The operation word of R82 to R87: its fields, the total decoder, and the encoder, both from the opcode map of
R84.
-/

namespace Sys2Proof

/-- `opcode = w[31:24]` (R82). -/
def opcodeField (w : Word) : Byte := w.extractLsb' 24 8

/-- `A = w[23:16]` (R82). -/
def aField (w : Word) : Byte := w.extractLsb' 16 8

/-- `B = w[15:0]` (R82). -/
def bField (w : Word) : Half := w.extractLsb' 0 16

/-- `B[7:0]` (R83). -/
def bLow (b : Half) : Byte := b.extractLsb' 0 8

/-- `B[15:8]` (R83). -/
def bHigh (b : Half) : Byte := b.extractLsb' 8 8

/-- The opcode of each operation (R84). -/
def opcodeOf : Instr → Byte
  | .readRegister _ => 0x01#8
  | .writeRegister _ _ => 0x02#8
  | .bulkTransfer _ _ => 0x03#8
  | .configure => 0x10#8
  | .registerCheck => 0x11#8
  | .readFifoCount => 0x20#8
  | .fifoRead _ => 0x21#8
  | .fifoReset => 0x22#8
  | .temperatureUpdate => 0x23#8
  | .tick => 0x30#8
  | .softReset => 0x31#8
  | .drdySignal => 0x40#8
  | .timerExpire => 0x41#8
  | .cmdStart => 0x50#8
  | .cmdStop => 0x51#8
  | .cmdReset => 0x52#8
  | .cmdPrintDiagnostics => 0x53#8

/-- The class of each operation (R84). -/
def classOf : Instr → OpClass
  | .readRegister _ => .bus
  | .writeRegister _ _ => .bus
  | .bulkTransfer _ _ => .bus
  | .configure => .internal
  | .registerCheck => .internal
  | .readFifoCount => .internal
  | .fifoRead _ => .internal
  | .fifoReset => .internal
  | .temperatureUpdate => .internal
  | .tick => .boundary
  | .softReset => .internal
  | .drdySignal => .boundary
  | .timerExpire => .boundary
  | .cmdStart => .boundary
  | .cmdStop => .boundary
  | .cmdReset => .boundary
  | .cmdPrintDiagnostics => .boundary

/-- A row with no operand: both fields are unused and must be 0 (R83). -/
def decodePlain (a : Byte) (b : Half) (i : Instr) : Except InvalidReason Instr :=
  if a = 0#8 ∧ b = 0#16 then .ok i else .error .nonZeroReserved

/-- The decoder: total, by the map of R84, with the reasons of R85 in their order (opcode, unused fields, operand range).
Every opcode outside the map is reserved (R87). -/
def decode (p : Params) (w : Word) : Except InvalidReason Instr :=
  let a := aField w
  let b := bField w
  match (opcodeField w).toNat with
  | 0x01 => if b = 0#16 then .ok (.readRegister a) else .error .nonZeroReserved
  | 0x02 => if bHigh b = 0#8 then .ok (.writeRegister a (bLow b)) else .error .nonZeroReserved
  | 0x03 => if 1 ≤ b.toNat then .ok (.bulkTransfer a b) else .error .operandRange
  | 0x10 => decodePlain a b .configure
  | 0x11 => decodePlain a b .registerCheck
  | 0x20 => decodePlain a b .readFifoCount
  | 0x21 =>
    if a = 0#8 then
      if 1 ≤ b.toNat ∧ b.toNat ≤ p.maxSamples then .ok (.fifoRead b) else .error .operandRange
    else .error .nonZeroReserved
  | 0x22 => decodePlain a b .fifoReset
  | 0x23 => decodePlain a b .temperatureUpdate
  | 0x30 => decodePlain a b .tick
  | 0x31 => decodePlain a b .softReset
  | 0x40 => decodePlain a b .drdySignal
  | 0x41 => decodePlain a b .timerExpire
  | 0x50 => decodePlain a b .cmdStart
  | 0x51 => decodePlain a b .cmdStop
  | 0x52 => decodePlain a b .cmdReset
  | 0x53 => decodePlain a b .cmdPrintDiagnostics
  | _ => .error .reservedOpcode

/-- The `A` field of an operation's word (R83, R84). -/
def aOf : Instr → Byte
  | .readRegister addr => addr
  | .writeRegister addr _ => addr
  | .bulkTransfer cmd _ => cmd
  | .configure => 0#8
  | .registerCheck => 0#8
  | .readFifoCount => 0#8
  | .fifoRead _ => 0#8
  | .fifoReset => 0#8
  | .temperatureUpdate => 0#8
  | .tick => 0#8
  | .softReset => 0#8
  | .drdySignal => 0#8
  | .timerExpire => 0#8
  | .cmdStart => 0#8
  | .cmdStop => 0#8
  | .cmdReset => 0#8
  | .cmdPrintDiagnostics => 0#8

/-- The `B` field of an operation's word, each operand zero-extended (R83, R84). -/
def bOf : Instr → Half
  | .readRegister _ => 0#16
  | .writeRegister _ value => value.setWidth 16
  | .bulkTransfer _ length => length
  | .fifoRead count => count
  | .configure => 0#16
  | .registerCheck => 0#16
  | .readFifoCount => 0#16
  | .fifoReset => 0#16
  | .temperatureUpdate => 0#16
  | .tick => 0#16
  | .softReset => 0#16
  | .drdySignal => 0#16
  | .timerExpire => 0#16
  | .cmdStart => 0#16
  | .cmdStop => 0#16
  | .cmdReset => 0#16
  | .cmdPrintDiagnostics => 0#16

/-- The encoder (R82, R84, R106): `opcode ++ A ++ B`. -/
def encode (i : Instr) : Word := opcodeOf i ++ aOf i ++ bOf i

/-- The operation of a boundary event of the environment. -/
def BoundaryOp.instr : BoundaryOp → Instr
  | .tick => .tick
  | .drdySignal => .drdySignal
  | .timerExpire => .timerExpire
  | .cmdStart => .cmdStart
  | .cmdStop => .cmdStop
  | .cmdReset => .cmdReset
  | .cmdPrintDiagnostics => .cmdPrintDiagnostics

/-- The operation the decoder reads from an operation word given by its bits as spec/opcode_table.json numbers them: one
32-bit word, bit 0 the least significant (R14, R82). The operand range of FIFO_READ is that of the parameters at
`State.reset`. -/
def decodeTableWord (nbits w : Nat) : Option Instr :=
  (decode Params.vectors (BitVec.ofNat 32 (w % 2 ^ nbits))).toOption

end Sys2Proof
end

