-- ==== Sys2Proof/Machine/Fetch.lean ====
section
/-!
DEFINITION. Where the next operation comes from. The block fetches no instructions (R61): operations are issued by the
environment and the scheduler (R3, R20), in any interleaving (R76, U16), so the state holds the program lines the environment
has given and not yet run, and with none left the next operation is a free value.
-/

namespace Sys2Proof.Machine

/-- Take program lines up to the next operation word: the annotations before it come into force (R107). R107 does not say what
happens where an annotation meets an earlier one not yet used up: the answers of the later bus annotation go behind the earlier
ones, and a later clock value replaces the earlier one (DESIGN CHOICE, log entry 20). -/
def takeLine : List ProgramLine → Env → Option Word × Env
  | [], e => (none, { e with program := [] })
  | .op w :: rest, e => (some w, { e with program := rest })
  | .atTime t :: rest, e => takeLine rest { e with time := some t }
  | .bus answers :: rest, e => takeLine rest { e with answers := e.answers ++ answers }

/-- The operation issued when no program line is left: a free word in HARNESS_MODE, else a free boundary operation (R86). -/
def freeOperation (p : Params) (draw : Nat) : Except InvalidReason Instr :=
  if p.harnessMode then decode p (Config.freeWord draw) else .ok (Config.freeOperation draw).instr

/-- The next operation, and the state in which it runs: the next program word decoded, else a free one. -/
def nextOperation (s : State) : Except InvalidReason Instr × State :=
  match takeLine s.env.program s.env with
  | (some w, e) => (decode s.cfg w, { s with env := e })
  | (none, e) => (freeOperation s.cfg e.opDraws, { s with env := { e with opDraws := e.opDraws + 1 } })

/-- The state with one operation word placed so that it is the next operation; a class I or X word needs HARNESS_MODE to run
(R86), so the parameter is set for one. -/
def State.placeWord (s : State) (w : Word) : State :=
  { s with
    cfg.harnessMode := match decode s.cfg w with
      | .ok i => s.cfg.harnessMode || !(classOf i == .boundary)
      | .error _ => s.cfg.harnessMode
    env.program := .op w :: s.env.program }

end Sys2Proof.Machine
end

