-- ==== Sys2Proof/Machine/Step.lean ====
section
/-!
DEFINITION. One step of the machine, and the placing of a word as its next operation.
-/

namespace Sys2Proof.Machine

/-- One step: a state with a raised fault has none (R53); an ill-formed parameter set is refused before any step (R13, R10, R179); a
word that decodes to no operation is refused (R87, R179); else the next operation runs. -/
def step (s : State) : Host.Outcome State Fault Refusal :=
  match s.faults with
  | k :: rest => .fault (.halted (k :: rest))
  | [] =>
    match s.cfg.firstFailing with
    | some c => .refused (.illFormedParameters c)
    | none =>
      match nextOperation s with
      | (.error reason, _) => .refused (.invalidWord reason)
      | (.ok i, s1) => exec i s1

/-- The state with the operation word of the given bits placed where `step` takes its next operation. -/
def State.withFetchWord (s : State) (nbits w : Nat) : State := s.placeWord (BitVec.ofNat 32 (w % 2 ^ nbits))

end Sys2Proof.Machine
end

