-- ==== Sys2Proof/Safety.lean ====
section
/-!
DEFINITION. What counts as a safe state and a safe step, in the terms claims use: the invariant of the context, where FIFO
accesses may occur, well-formed batches, the transition table of R167, and what a step may not undo.
-/

namespace Sys2Proof.Machine

/-- No model fault has been raised (R53, R178). -/
def Safe (s : State) : Prop := s.faults = []

/-- A timestamp lies no later than the last tick or operation issued on its own. -/
def StampOk (last stamp : Option Time) : Prop := ∀ t, stamp = some t → ∃ l, last = some l ∧ t ≤ l

/-- The invariant of the context under a parameter set: the ranges of R33, R42 and R43, the order of the timestamps (R34,
R140), the optional timestamps that R167 says are set, where the event sources are masked (R27, R28, R159), and the temperature
fields, which are written together (R48, R136). -/
structure CtxInv (p : Params) (c : Ctx) : Prop where
  cursor : c.cursor < p.table.length
  configStreak : c.configFailStreak < p.configAttemptMax
  busStreak : c.busErrorStreak < p.busErrorResetThreshold
  tReset : StampOk c.tLastTick c.tReset
  tCfgCheck : StampOk c.tLastTick c.tCfgCheck
  tDrdy : StampOk c.tLastTick c.tDrdy
  tTemp : StampOk c.tLastTick c.tTemp
  waiting : c.state = .waitForReset → c.tReset ≠ none
  reading : c.state = .fifoRead → c.tDrdy ≠ none
  timer : c.timerEnabled = true ↔ c.state ≠ .stopped
  drdy : c.drdyEnabled = true → (c.state = .configure ∨ c.state = .fifoRead ∨ c.state = .requestStop) ∧
    p.drdyAvailable = true
  failed : c.initFailed = true → c.state = .stopped
  temperature : c.temperature = c.tempRaw.map Config.tempConvert ∧ (c.tTemp = none ↔ c.tempRaw = none)

/-- The invariant of the machine: well-formed parameters (R13, R10) and the invariant of the context. -/
structure Inv (s : State) : Prop where
  params : s.cfg.wf = true
  ctx : CtxInv s.cfg s.ctx

/-- A bus event that is an access of the pipeline to the FIFO: a bulk transfer, or a read of the FIFO-length pair at an address
that neither the table nor the reset probe names (R168). -/
def FifoAccess (p : Params) (e : BusEvent) : Prop :=
  e.op = .bulkTransfer ∨
    e.op = .readRegister ∧ (e.a = p.regFifoLenLo ∨ e.a = p.regFifoLenHi) ∧ (∀ x ∈ p.table, x.reg ≠ e.a) ∧
      (p.resetProbeMask = 0x00#8 ∨ p.resetProbeReg ≠ e.a)

/-- Every FIFO access in the bus history was issued in FIFO_READ (R168). -/
def FifoAccessOnlyInFifoRead (s : State) : Prop := ∀ e ∈ s.out.busLog, FifoAccess s.cfg e → e.state = .fifoRead

/-- A batch as the consumer may see it: not empty, no longer than the capacities allow, its timestamps one interval apart,
oldest first, its interval field that of the parameters, and each axis value the scaled raw value (R50, R99, R129, R131). -/
structure BatchOk (p : Params) (b : Batch) : Prop where
  nonempty : b.samples ≠ []
  length : b.samples.length ≤ p.maxSamples
  spaced : b.samples.IsChain fun x y => x.t.toNat + p.sampleIntervalUs = y.t.toNat
  interval : b.interval = p.intervalField
  scaled : ∀ x ∈ b.samples, x.x = Machine.scaled x.rawX ∧ x.y = Machine.scaled x.rawY ∧ x.z = Machine.scaled x.rawZ

/-- Every batch handed to the consumer is one it may see (R170, R180). -/
def BatchesOk (s : State) : Prop := ∀ b ∈ s.out.batches, BatchOk s.cfg b

/-- No counter is lower (R40). -/
def CountersKept (c d : Ctx) : Prop :=
  c.cntBadRegister ≤ d.cntBadRegister ∧ c.cntBadTransfer ≤ d.cntBadTransfer ∧ c.cntFifoEmpty ≤ d.cntFifoEmpty ∧
    c.cntFifoOverflow ≤ d.cntFifoOverflow ∧ c.cntFifoReset ≤ d.cntFifoReset

/-- No entry of a history is lost or changed (R50, R51, R57). -/
def HistoryKept (o o' : Out) : Prop :=
  o.batches <+: o'.batches ∧ o.diagnostics <+: o'.diagnostics ∧ o.busLog <+: o'.busLog

/-- The shared cells are not consumed: `pending` is not lowered, a tick request is not withdrawn, and with both event sources
masked, so that no callback step has an effect, both cells are as before (R76, R86). -/
def SharedNotConsumed (s t : State) : Prop :=
  s.shared.pending ≤ t.shared.pending ∧ (s.shared.tickRequested = true → t.shared.tickRequested = true) ∧
    (s.ctx.drdyEnabled = false → s.ctx.timerEnabled = false → t.shared = s.shared)

/-- The opcodes of R84. -/
def knownOpcodes : List Nat :=
  [0x01, 0x02, 0x03, 0x10, 0x11, 0x20, 0x21, 0x22, 0x23, 0x30, 0x31, 0x40, 0x41, 0x50, 0x51, 0x52, 0x53]

/-- Every field the word's operation does not use is 0, by the rows of R84 (R83). -/
def UnusedFieldsZero (w : Word) : Prop :=
  if opcodeField w = 0x01#8 then bField w = 0#16
  else if opcodeField w = 0x02#8 then bHigh (bField w) = 0#8
  else if opcodeField w = 0x03#8 then True
  else if opcodeField w = 0x21#8 then aField w = 0#8
  else aField w = 0#8 ∧ bField w = 0#16

/-- The word's operands lie in the ranges of R85. -/
def OperandsInRange (p : Params) (w : Word) : Prop :=
  if opcodeField w = 0x03#8 then 1 ≤ (bField w).toNat
  else if opcodeField w = 0x21#8 then 1 ≤ (bField w).toNat ∧ (bField w).toNat ≤ min p.devFifoCap p.consBatchCap
  else True

/-- The kind of transaction and the address of each event of a piece of the bus history, without its answers. -/
def requests (log : List BusEvent) : List (BusOp × Byte) := log.map fun e => (e.op, e.a)

/-- The requests a Configure that meets no bus error issues (R118, R120): for each entry in table order the base read (in RMW
mode) and the write, then for each entry in table order the readback. -/
def configureRequests (p : Params) : List (BusOp × Byte) :=
  (p.table.flatMap fun e =>
      match p.configBaseMode with
      | .rmw => [(.readRegister, e.reg), (.writeRegister, e.reg)]
      | .zero => [(.writeRegister, e.reg)]) ++
    p.table.map fun e => (.readRegister, e.reg)

/-- The prologue of a tick: the request cleared, the time drawn, the pending events consumed (R141, R142). -/
def prologue (s : State) : State :=
  ({ s with shared.tickRequested := false }.timed).consumePending s.clockValue

/-! ## The parts of a FIFO_READ tick (R151), seen from the state the tick starts in -/

/-- The state after step 1, the register check. -/
def afterCheck (s : State) : State := (checkStep s.clockValue (prologue s)).2

/-- A stall: the path is enabled, the tick consumes no event, and more than 2 × the expected interval has passed (R154). -/
def stallAt (s : State) : Bool :=
  s.ctx.drdyEnabled && s.shared.pending == 0#32 &&
    decide (2 * s.cfg.drdyExpectedIntervalUs < elapsedOpt s.clockValue s.ctx.tDrdy)

/-- FIFO work is due: the path is disabled, the tick consumes an event, or it stalls (R154). -/
def fifoWorkAt (s : State) : Bool := !s.ctx.drdyEnabled || s.shared.pending != 0#32 || stallAt s

/-- The state FIFO work starts in: a stall has set the data-ready time (R154). -/
def workStart (s : State) : State :=
  { afterCheck s with ctx.tDrdy := if stallAt s then some s.clockValue else (afterCheck s).ctx.tDrdy }

/-- Step 2, the FIFO work where it is due: whether a bus error occurred, and the state after it. -/
def afterWork (s : State) : Except Fault (Bool × State) :=
  if fifoWorkAt s then fifoWork s.clockValue (workStart s) else .ok (false, afterCheck s)

/-- The transaction of the newest event of `t` failed, and `t` has more events than `s`. -/
def EndsInBusError (s t : State) : Prop :=
  s.out.busLog.length < t.out.busLog.length ∧ ∃ e, t.out.busLog.getLast? = some e ∧ e.result = .busError

/-- The transition table of R167: the change of `ctx.state` from `s` to `t` that operation `i` makes is a row of the table, with
the row's cause. -/
def StateChange (i : Instr) (s t : State) : Prop :=
  match i, s.ctx.state, t.ctx.state with
  | .tick, .reset, .waitForReset => (softReset (prologue s)).1 = .ok
  | .tick, .waitForReset, .configure =>
    s.cfg.settleMinUs ≤ elapsedOpt s.clockValue s.ctx.tReset ∧ (resetSettled (prologue s)).1 = true
  | .tick, .waitForReset, .stopped =>
    (resetSettled (prologue s)).1 = false ∧ s.cfg.resetMaxWaitUs < elapsedOpt s.clockValue s.ctx.tReset ∧
      t.ctx.initFailed = true
  | .tick, .configure, .fifoRead => (configure (prologue s)).1 = .success
  | .tick, .configure, .reset =>
    (configure (prologue s)).1 ≠ .success ∧ s.cfg.configAttemptMax ≤ s.ctx.configFailStreak + 1
  | .tick, .fifoRead, .configure => (checkStep s.clockValue (prologue s)).1 = .mismatch
  | .tick, .fifoRead, .reset => EndsInBusError s t ∧ s.cfg.busErrorResetThreshold ≤ s.ctx.busErrorStreak + 1
  | .tick, .requestStop, .stopped => True
  | .cmdStop, .stopped, .requestStop => False
  | .cmdStop, _, .requestStop => True
  | .cmdStart, .stopped, .reset => True
  | .cmdReset, _, .reset => True
  | _, _, _ => False

end Sys2Proof.Machine
end

