-- ==== Sys2Proof/Certificates/Slice0/Obligations.lean ====
section
/-!
DEFINITION. The statements for the provers, from the numbered rules of spec/. Each holds for every state, so for every parameter
set, every answer of the bus transport, every clock value and every interleaving of callback steps.
-/

open Sys2Proof Sys2Proof.Machine

/-! ## The operation word -/

/-- Words written out from R84 and the vectors V1 to V18 decode to the operations they stand for. -/
def Obligations.SpecWordsDecode : Prop :=
  decode Params.vectors 0x01420000#32 = .ok (.readRegister 0x42#8) ∧
  decode Params.vectors 0x027F005A#32 = .ok (.writeRegister 0x7F#8 0x5A#8) ∧
  decode Params.vectors 0x03240025#32 = .ok (.bulkTransfer 0x24#8 37#16) ∧
  decode Params.vectors 0x10000000#32 = .ok .configure ∧
  decode Params.vectors 0x2100000A#32 = .ok (.fifoRead 10#16) ∧
  decode Params.vectors 0x30000000#32 = .ok .tick ∧
  decode Params.vectors 0x41000000#32 = .ok .timerExpire ∧
  decode Params.vectors 0x53000000#32 = .ok .cmdPrintDiagnostics

/-- Decoding an encoded well-formed operation gives it back, with every operand at every value its range admits (R82 to R85). -/
def Obligations.DecodeOfEncode : Prop :=
  ∀ (p : Params) (i : Instr), WellFormed p i = true → decode p (encode i) = .ok i

/-- Where a word decodes to an operation, that operation is well-formed and its word is that word: no bit is dropped (R82 to
R85). -/
def Obligations.EncodeOfDecode : Prop :=
  ∀ (p : Params) (w : Word) (i : Instr), decode p w = .ok i → WellFormed p i = true ∧ encode i = w

/-- The total decoder (R85): the opcode is checked first, then the unused fields, then the operand range; every other word is
an operation. -/
def Obligations.DecoderReasonsInOrder : Prop :=
  ∀ (p : Params) (w : Word),
    ((opcodeField w).toNat ∉ knownOpcodes → decode p w = .error .reservedOpcode) ∧
    ((opcodeField w).toNat ∈ knownOpcodes → ¬ UnusedFieldsZero w → decode p w = .error .nonZeroReserved) ∧
    ((opcodeField w).toNat ∈ knownOpcodes → UnusedFieldsZero w → ¬ OperandsInRange p w →
      decode p w = .error .operandRange) ∧
    ((opcodeField w).toNat ∈ knownOpcodes → UnusedFieldsZero w → OperandsInRange p w →
      ∃ i, decode p w = .ok i ∧ opcodeOf i = opcodeField w ∧ aOf i = aField w ∧ bOf i = bField w)

/-- Reserved and otherwise invalid words (R87): exactly the opcodes outside the map are reserved, and a word that decodes to
nothing has no step. -/
def Obligations.InvalidWordsHaveNoStep : Prop :=
  (∀ (p : Params) (w : Word), decode p w = .error .reservedOpcode ↔
    (let c := (opcodeField w).toNat
     c = 0x00 ∨ 0x04 ≤ c ∧ c ≤ 0x0F ∨ 0x12 ≤ c ∧ c ≤ 0x1F ∨ 0x24 ≤ c ∧ c ≤ 0x2F ∨ 0x32 ≤ c ∧ c ≤ 0x3F ∨
      0x42 ≤ c ∧ c ≤ 0x4F ∨ 0x54 ≤ c)) ∧
  ∀ (s : State) (w : Word) (rest : List ProgramLine) (reason : InvalidReason), s.faults = [] → s.cfg.wf = true →
    s.env.program = .op w :: rest → decode s.cfg w = .error reason → step s = .refused (.invalidWord reason)

/-! ## The step -/

/-- A step runs the decoded operation: the next program word, where it decodes to `i`, runs as `exec i` in the state without
that line. (How a program comes to run is log entry 6.) -/
def Obligations.StepRunsTheDecodedWord : Prop :=
  ∀ (s : State) (w : Word) (rest : List ProgramLine) (i : Instr), s.faults = [] → s.cfg.wf = true →
    s.env.program = .op w :: rest → decode s.cfg w = .ok i → step s = exec i { s with env.program := rest }

/-- A clock annotation gives the clock value the next draw receives, and a bus annotation the answers to the next
transactions in issue order (R107): the step is that of the state with the annotation in force. That a step takes the lines up
to the next word is the model's choice (log entry 6), that one draw uses a clock annotation up is read from R107 by inference
(log entry 3), and that later answers go behind earlier ones is the model's choice (log entry 20). -/
def Obligations.AnnotationsComeIntoForce : Prop :=
  ∀ (s : State) (rest : List ProgramLine),
    (∀ t, step { s with env.program := .atTime t :: rest } = step { s with env.program := rest, env.time := some t }) ∧
    (∀ as, step { s with env.program := .bus as :: rest } =
      step { s with env.program := rest, env.answers := s.env.answers ++ as }) ∧
    (∀ t, s.env.time = some t → s.clockValue = t ∧ s.clocked.env.time = none) ∧
    ∀ a as r, s.env.answers = a :: as → s.answer r = a ∧ (s.transact r).env.answers = as

/-- The fault set (R53): empty at creation; kept by every next state; a raised fault adds its kind and removes none; a state
with a non-empty fault set has no further step. -/
def Obligations.FaultsAreFinal : Prop :=
  (∀ p, (State.create p).faults = []) ∧
  (∀ (i : Instr) (s t : State), exec i s = .next t → t.faults = s.faults) ∧
  (∀ (i : Instr) (s left : State) (prev now : Time), exec i s = .fault (.clockRegression prev now left) →
    ∀ k, k ∈ left.faults ↔ k = .clockRegression ∨ k ∈ s.faults) ∧
  (∀ (i : Instr) (s left : State) (t : Time) (n interval : Nat), exec i s = .fault (.timestampUnderflow t n interval left) →
    ∀ k, k ∈ left.faults ↔ k = .timestampUnderflow ∨ k ∈ s.faults) ∧
  (∀ (i : Instr) (s left : State) (length : Nat), exec i s = .fault (.scratchOverflow length left) →
    ∀ k, k ∈ left.faults ↔ k = .scratchOverflow ∨ k ∈ s.faults) ∧
  ∀ s : State, s.faults ≠ [] → step s = .fault (.halted s.faults)

/-- A parameter set in which any check of R13 fails, or the bound of R10 on TEMP_INTERVAL_US, is refused before any step, and no
other is. That R10's bound is a check, which R13 does not list, is the model's reading (log entry 15). -/
def Obligations.IllFormedParametersRefused : Prop :=
  ∀ s : State, s.faults = [] →
    ((∃ c, step s = .refused (.illFormedParameters c)) ↔
      ¬ (1 ≤ s.cfg.table.length ∧ (∀ e ∈ s.cfg.table, e.setBits &&& e.clearBits = 0x00#8) ∧ 1 ≤ s.cfg.devFifoCap ∧
        1 ≤ s.cfg.consBatchCap ∧ 1 ≤ s.cfg.sampleIntervalUs ∧ 1 ≤ s.cfg.watermarkSamples ∧
        s.cfg.settleMinUs ≤ s.cfg.resetMaxWaitUs ∧ 1 ≤ s.cfg.fifoCountDiv ∧
        s.cfg.devFifoCap * s.cfg.fifoCountDiv ≤ 0xFFFF ∧
        2 + min s.cfg.devFifoCap s.cfg.consBatchCap * 7 ≤ 0xFFFF ∧ 1 ≤ s.cfg.configAttemptMax ∧
        1 ≤ s.cfg.busErrorResetThreshold ∧ 1 ≤ s.cfg.badframeResetThreshold ∧ 1 ≤ s.cfg.tempIntervalUs))

/-- Admission by class (R86): a class I or X operation outside HARNESS_MODE is refused as InternalOperation; a class B
operation, and any operation in HARNESS_MODE, is never refused. -/
def Obligations.AdmissionByClass : Prop :=
  ∀ (i : Instr) (s : State),
    (classOf i ≠ .boundary → s.cfg.harnessMode = false → exec i s = .refused .internalOperation) ∧
    (classOf i = .boundary ∨ s.cfg.harnessMode = true → ∀ r, exec i s ≠ .refused r)

/-- An operation issued alone in HARNESS_MODE (R86, R24): it draws `now` by the clock rule and writes it to `t_last_tick`; it
never writes `ctx.state`; and it consumes neither shared cell, but for FIFO_RESET, whose own effect clears `pending`. -/
def Obligations.HarnessOperationsKeepTheSequencing : Prop :=
  ∀ (i : Instr) (s t : State), classOf i ≠ .boundary → exec i s = .next t →
    clockRuns s = true ∧ t.ctx.tLastTick = some s.clockValue ∧ t.ctx.state = s.ctx.state ∧
    (s.shared.tickRequested = true → t.shared.tickRequested = true) ∧ (i ≠ .fifoReset → SharedNotConsumed s t)

/-! ## The bus transaction primitive -/

/-- READ_REGISTER (R113): one transaction, one event, and the oracle's byte or BusError; no field of the context but the time of
R86 is written, and callback steps that fall into the transaction reach the shared cells alone. -/
def Obligations.ReadRegisterReadsOneByte : Prop :=
  ∀ (addr : Byte) (s : State), s.cfg.harnessMode = true → clockRuns s = true →
    let a := s.answer (.read addr)
    let result := if a.error then BusResult.busError else BusResult.ok [a.byte]
    encode (.readRegister addr) = 0x01#8 ++ addr ++ 0#16 ∧
    ∃ t, exec (.readRegister addr) s = .next t ∧ t.cfg = s.cfg ∧
      t.ctx = { s.ctx with tLastTick := some s.clockValue } ∧ t.shared = (s.deliver a.during).shared ∧
      t.out = { s.out with
        busLog := s.out.busLog ++ [{ op := .readRegister, a := addr, b := 0#16, result := result, state := s.ctx.state }]
        lastOutcome := some (.readRegister result) } ∧
      t.faults = s.faults ∧ t.env.program = s.env.program

/-- WRITE_REGISTER (R114): one transaction, one event with the value zero-extended, `Ok` or BusError; nothing else. -/
def Obligations.WriteRegisterWritesOneByte : Prop :=
  ∀ (addr value : Byte) (s : State), s.cfg.harnessMode = true → clockRuns s = true →
    let a := s.answer (.write addr value)
    let result := if a.error then BusResult.busError else BusResult.ok []
    encode (.writeRegister addr value) = 0x02#8 ++ addr ++ (0x00#8 ++ value) ∧
    ∃ t, exec (.writeRegister addr value) s = .next t ∧ t.cfg = s.cfg ∧
      t.ctx = { s.ctx with tLastTick := some s.clockValue } ∧ t.shared = (s.deliver a.during).shared ∧
      t.out = { s.out with
        busLog := s.out.busLog ++
          [{ op := .writeRegister, a := addr, b := 0x00#8 ++ value, result := result, state := s.ctx.state }]
        lastOutcome := some (.writeRegister result) } ∧
      t.faults = s.faults ∧ t.env.program = s.env.program

/-- BULK_TRANSFER within the scratch buffer (R115): one transaction that transmits the command and 0x00 filler (R94), one event,
the oracle's bytes or BusError; nothing else. -/
def Obligations.BulkTransferMovesItsBytes : Prop :=
  ∀ (cmd : Byte) (length : Half) (s : State), s.cfg.harnessMode = true → clockRuns s = true →
    length.toNat ≤ s.cfg.scratchSize →
    let a := s.answer (.bulk cmd length.toNat)
    let result := if a.error then BusResult.busError else BusResult.ok a.block
    encode (.bulkTransfer cmd length) = 0x03#8 ++ cmd ++ length ∧
    txBytes (.bulk cmd length.toNat) = cmd :: List.replicate (length.toNat - 1) 0x00#8 ∧
    ∃ t, exec (.bulkTransfer cmd length) s = .next t ∧ t.cfg = s.cfg ∧
      t.ctx = { s.ctx with tLastTick := some s.clockValue } ∧ t.shared = (s.deliver a.during).shared ∧
      t.out = { s.out with
        busLog := s.out.busLog ++ [{ op := .bulkTransfer, a := cmd, b := length, result := result, state := s.ctx.state }]
        lastOutcome := some (.bulkTransfer result) } ∧
      t.faults = s.faults ∧ t.env.program = s.env.program

/-- BULK_TRANSFER beyond the scratch buffer is the fault ScratchOverflow before any transaction, SCRATCH_SIZE being
`2 + 7 × min(DEV_FIFO_CAP, CONS_BATCH_CAP)` (R115, R47, R178). That the state left has the time drawn before (R86, R140) is the
model's reading of what a fault leaves (log entry 13). -/
def Obligations.BulkBeyondScratchFaults : Prop :=
  ∀ (cmd : Byte) (length : Half) (s : State), s.cfg.harnessMode = true → clockRuns s = true →
    2 + 7 * min s.cfg.devFifoCap s.cfg.consBatchCap < length.toNat →
    ∃ left, exec (.bulkTransfer cmd length) s = .fault (.scratchOverflow length.toNat left) ∧
      left.out = s.out ∧ left.shared = s.shared ∧ left.ctx = { s.ctx with tLastTick := some s.clockValue }

/-- With no annotated answer, the transport is that of R110: a bulk transfer of n bytes that succeeds delivers exactly n. -/
def Obligations.FreeBulkAnswerHasTheLengthAsked : Prop :=
  ∀ (cmd : Byte) (n : Nat) (s : State), s.env.answers = [] → (s.answer (.bulk cmd n)).block.length = n

/-! ## The configuration verifier -/

/-- The write-value law (R119): the value Configure writes satisfies its entry, and bits outside both masks equal the base's.
(That this value is what the WRITE_REGISTER events carry is part of ConfigureOrderIsTheTables.) -/
def Obligations.WriteValueSatisfiesEntry : Prop :=
  ∀ (e : RegisterConfigEntry) (base : Byte), e.setBits &&& e.clearBits = 0x00#8 →
    configValue e base = base &&& ~~~e.clearBits ||| e.setBits ∧ satisfied e (configValue e base) = true ∧
    configValue e base &&& ~~~(e.setBits ||| e.clearBits) = base &&& ~~~(e.setBits ||| e.clearBits)

/-- CONFIGURE issued alone completes whatever the oracle answers; of the context it writes the bad-register counter alone,
which it never lowers, and the time of R86 (R118). -/
def Obligations.ConfigureCompletes : Prop :=
  ∀ s : State, s.cfg.harnessMode = true → clockRuns s = true →
    encode .configure = 0x10#8 ++ 0x00#8 ++ 0#16 ∧
    ∃ t r n, exec .configure s = .next t ∧ t.cfg = s.cfg ∧ s.ctx.cntBadRegister ≤ n ∧
      t.ctx = { s.ctx with tLastTick := some s.clockValue, cntBadRegister := n } ∧
      t.out.lastOutcome = some (.configure r) ∧ t.out.batches = s.out.batches ∧ t.out.diagnostics = s.out.diagnostics ∧
      s.out.busLog <+: t.out.busLog ∧ t.faults = s.faults ∧ t.env.program = s.env.program

/-- The order of Configure (R120) and the values it writes (R118): a Configure issues, in table order, each entry's base read (in
RMW mode) immediately before its write, and only then, in table order, every readback; one that meets a bus error issues a
prefix of these. The write of entry i carries `(base & ~clear) | set`, where the base is what the read before it received, or 0 in
ZERO mode. -/
def Obligations.ConfigureOrderIsTheTables : Prop :=
  ∀ s t : State, exec .configure s = .next t →
    ∃ new, t.out.busLog = s.out.busLog ++ new ∧ requests new <+: configureRequests s.cfg ∧
      (t.out.lastOutcome ≠ some (.configure .failBusError) → requests new = configureRequests s.cfg) ∧
      ∀ (i : Nat) (e : RegisterConfigEntry), s.cfg.table[i]? = some e →
        (s.cfg.configBaseMode = .rmw → ∀ w, new[2 * i + 1]? = some w →
          ∃ r base, new[2 * i]? = some r ∧ r.result = .ok [base] ∧ w.op = .writeRegister ∧ w.a = e.reg ∧
            w.b = 0x00#8 ++ (base &&& ~~~e.clearBits ||| e.setBits)) ∧
        (s.cfg.configBaseMode = .zero → ∀ w, new[i]? = some w →
          w.op = .writeRegister ∧ w.a = e.reg ∧ w.b = 0x00#8 ++ e.setBits)

/-- The detection property (R121, R118), in both modes, for answers given in issue order: two for each entry in phase 1 (one in
ZERO mode), none a bus error, and one for each entry in phase 2. If none of phase 2 is a bus error, Configure succeeds exactly if
every readback is satisfied, and the bad-register counter has grown by one, saturating, for each readback that is not. If one of
phase 2 is a bus error, Configure reports it and takes no further answer, and the counter keeps what the readbacks before it
added. -/
def Obligations.ConfigureDetectsEveryBadReadback : Prop :=
  ∀ (s t : State) (phase1 phase2 rest : List BusAnswer), s.env.answers = phase1 ++ phase2 ++ rest →
    phase1.length = (match s.cfg.configBaseMode with
      | .rmw => 2
      | .zero => 1) * s.cfg.table.length →
    (∀ a ∈ phase1, a.error = false) → exec .configure s = .next t →
    let bad := fun readbacks : List BusAnswer =>
      (List.zip s.cfg.table readbacks).countP fun x => !satisfied x.1 x.2.byte
    (phase2.length = s.cfg.table.length → (∀ a ∈ phase2, a.error = false) →
      t.out.lastOutcome = some (.configure (if bad phase2 = 0 then .success else .failMismatch)) ∧
      t.ctx.cntBadRegister = satInc^[bad phase2] s.ctx.cntBadRegister ∧ t.env.answers = rest) ∧
    ∀ (before : List BusAnswer) (failing : BusAnswer), phase2 = before ++ [failing] → before.length < s.cfg.table.length →
      (∀ a ∈ before, a.error = false) → failing.error = true →
      t.out.lastOutcome = some (.configure .failBusError) ∧
      t.ctx.cntBadRegister = satInc^[bad before] s.ctx.cntBadRegister ∧ t.env.answers = rest

/-- A bus error ends Configure at once (R118, R188): it reports Fail(BusError) exactly if its last transaction failed, and no
transaction before the last one failed. -/
def Obligations.ConfigureStopsAtTheFirstBusError : Prop :=
  ∀ s t : State, exec .configure s = .next t →
    ∃ new, t.out.busLog = s.out.busLog ++ new ∧ (∀ e ∈ new.dropLast, e.result ≠ .busError) ∧
      (t.out.lastOutcome = some (.configure .failBusError) ↔ ∃ e, new.getLast? = some e ∧ e.result = .busError)

/-- REGISTER_CHECK (R122): the entry at the cursor, which moves on modulo the table length whatever the outcome; one read; a
mismatch is counted; a bus error is not a mismatch. -/
def Obligations.RegisterCheckReadsTheEntryAtTheCursor : Prop :=
  ∀ (s : State) (e : RegisterConfigEntry), s.cfg.harnessMode = true → clockRuns s = true →
    s.cfg.table[s.ctx.cursor]? = some e →
    let a := s.answer (.read e.reg)
    let bad := !a.error && !satisfied e a.byte
    encode .registerCheck = 0x11#8 ++ 0x00#8 ++ 0#16 ∧
    ∃ t, exec .registerCheck s = .next t ∧ t.cfg = s.cfg ∧
      t.ctx = { s.ctx with
        tLastTick := some s.clockValue
        cursor := (s.ctx.cursor + 1) % s.cfg.table.length
        cntBadRegister := if bad then satInc s.ctx.cntBadRegister else s.ctx.cntBadRegister } ∧
      t.shared = (s.deliver a.during).shared ∧
      t.out = { s.out with
        busLog := s.out.busLog ++ [{ op := .readRegister, a := e.reg, b := 0#16, state := s.ctx.state,
                                     result := if a.error then .busError else .ok [a.byte] }]
        lastOutcome := some (.registerCheck (if a.error then .busErr else if bad then .mismatch else .matched)) } ∧
      t.faults = s.faults ∧ t.env.program = s.env.program

/-- Round-robin coverage (R124): from any cursor c, L consecutive checks read the entries c, c+1, …, c+L−1 modulo L, each entry
exactly once, and the cursor is then c again. -/
def Obligations.RoundRobinCoversTheTable : Prop :=
  ∀ s : State, s.ctx.cursor < s.cfg.table.length →
    let t := (fun u : State => (registerCheck u).2)^[s.cfg.table.length] s
    requests t.out.busLog = requests s.out.busLog ++
      (s.cfg.table.rotate s.ctx.cursor).map (fun e => (BusOp.readRegister, e.reg)) ∧ t.ctx.cursor = s.ctx.cursor

/-! ## The FIFO pipeline -/

/-- READ_FIFO_COUNT (R126): low byte, then high byte if the first read succeeds; BusErr counts nothing, Overflow and Empty count
themselves, and else the count is clamped to both capacities. `s1` is the state between the two reads. -/
def Obligations.ReadFifoCountClassifies : Prop :=
  ∀ s : State, s.cfg.harnessMode = true → clockRuns s = true →
    let lo := s.answer (.read s.cfg.regFifoLenLo)
    let s1 := s.timed.transact (.read s.cfg.regFifoLenLo)
    let hi := s1.answer (.read s.cfg.regFifoLenHi)
    let raw := hi.byte.toNat * 256 + lo.byte.toNat
    let samples := raw / s.cfg.fifoCountDiv
    let failed := lo.error || hi.error
    encode .readFifoCount = 0x20#8 ++ 0x00#8 ++ 0#16 ∧
    ∃ t, exec .readFifoCount s = .next t ∧ t.cfg = s.cfg ∧
      t.out.lastOutcome = some (.readFifoCount
        (if failed then .busErr
         else if s.cfg.devFifoCap * s.cfg.fifoCountDiv < raw then .overflow
         else if samples = 0 then .empty
         else .count (min samples (min s.cfg.devFifoCap s.cfg.consBatchCap)))) ∧
      t.ctx = { s.ctx with
        tLastTick := some s.clockValue
        cntFifoOverflow :=
          if !failed ∧ s.cfg.devFifoCap * s.cfg.fifoCountDiv < raw then satInc s.ctx.cntFifoOverflow
          else s.ctx.cntFifoOverflow
        cntFifoEmpty :=
          if !failed ∧ raw ≤ s.cfg.devFifoCap * s.cfg.fifoCountDiv ∧ samples = 0 then satInc s.ctx.cntFifoEmpty
          else s.ctx.cntFifoEmpty } ∧
      t.out.busLog = (if lo.error then s1.out.busLog else (s1.transact (.read s.cfg.regFifoLenHi)).out.busLog) ∧
      t.out.batches = s.out.batches ∧ t.out.diagnostics = s.out.diagnostics ∧ t.faults = s.faults ∧
      t.env.program = s.env.program

/-- The count law (R127): up to the capacity a raw count is Empty, read as 0, or a count of 1 to min(capacities), monotonic
non-decreasing in the raw count; above it, Overflow, the FIFO work of a tick that finds Overflow issues the two count reads and
the flush write alone, and in the whole of that tick there is no bulk transfer. -/
def Obligations.CountLaw : Prop :=
  ∀ p : Params, p.wf = true →
    let value : CountOutcome → Nat := fun r => match r with
      | .count n => n
      | .empty => 0
      | .overflow => 0
      | .busErr => 0
    (∀ raw, p.devFifoCap * p.fifoCountDiv < raw → classifyCount p raw = .overflow) ∧
    (∀ raw, raw ≤ p.devFifoCap * p.fifoCountDiv → classifyCount p raw = .empty ∨
      ∃ n, classifyCount p raw = .count n ∧ 1 ≤ n ∧ n ≤ min p.devFifoCap p.consBatchCap) ∧
    (∀ raw raw', raw ≤ raw' → raw' ≤ p.devFifoCap * p.fifoCountDiv →
      value (classifyCount p raw) ≤ value (classifyCount p raw')) ∧
    (∀ (now : Time) (s t : State) (busErr : Bool), s.cfg = p → (readFifoCount s).1 = .overflow →
      fifoWork now s = .ok (busErr, t) → requests t.out.busLog = requests s.out.busLog ++
        [(.readRegister, p.regFifoLenLo), (.readRegister, p.regFifoLenHi), (.writeRegister, p.regCmdFlush)]) ∧
    ∀ s t : State, s.cfg = p → s.shared.tickRequested = true → s.ctx.state = .fifoRead →
      (checkStep s.clockValue (prologue s)).1 = .matched → fifoWorkAt s = true →
      (readFifoCount (workStart s)).1 = .overflow → exec .tick s = .next t →
      ∃ new, t.out.busLog = s.out.busLog ++ new ∧ ∀ e ∈ new, e.op ≠ .bulkTransfer

/-- FIFO_READ (R128) for a count in range and, where a frame of a whole block validates, a clock late enough for the oldest
timestamp: BusErr, BadLength, BadFrame or Ok by the first that applies; one bad transfer counted on each but Ok; the validated
frames emitted in one batch, and nothing if there are none, however early the clock. -/
def Obligations.FifoReadEmitsTheValidFrames : Prop :=
  ∀ (count : Half) (s : State), s.cfg.harnessMode = true → clockRuns s = true → WellFormed s.cfg (.fifoRead count) = true →
    let a := s.answer (.bulk s.cfg.regFifoData (2 + count.toNat * 7))
    let scan := scanFrames s.cfg a.block count.toNat 0
    let whole := !a.error && a.block.length == 2 + count.toNat * 7
    (whole → scan.1 ≠ [] → (count.toNat - 1) * s.cfg.sampleIntervalUs ≤ s.clockValue.toNat) →
    let r : FifoReadOutcome :=
      if a.error then .busErr else if whole then (match scan.2 with
        | none => .ok
        | some k => .badFrame k) else .badLength
    encode (.fifoRead count) = 0x21#8 ++ 0x00#8 ++ count ∧
    ∃ t, exec (.fifoRead count) s = .next t ∧ t.cfg = s.cfg ∧ t.out.lastOutcome = some (.fifoRead r) ∧
      t.ctx = { s.ctx with
        tLastTick := some s.clockValue
        cntBadTransfer := if r = .ok then s.ctx.cntBadTransfer else satInc s.ctx.cntBadTransfer } ∧
      t.out.batches = s.out.batches ++
        (if whole ∧ scan.1 ≠ [] then [batchOf s.cfg s.clockValue count.toNat scan.1] else []) ∧
      t.shared = (s.deliver a.during).shared ∧
      t.out.busLog = s.out.busLog ++
        [{ op := .bulkTransfer, a := s.cfg.regFifoData, b := BitVec.ofNat 16 (2 + count.toNat * 7), state := s.ctx.state,
           result := if a.error then .busError else .ok a.block }] ∧
      t.out.diagnostics = s.out.diagnostics ∧ t.faults = s.faults ∧ t.env.program = s.env.program

/-- FIFO_READ whose oldest timestamp would be below 0 is the fault TimestampUnderflow, if a frame validates; no batch is emitted
(R128, R178, U19). -/
def Obligations.EarlyFifoReadFaults : Prop :=
  ∀ (count : Half) (s : State), s.cfg.harnessMode = true → clockRuns s = true → WellFormed s.cfg (.fifoRead count) = true →
    s.clockValue.toNat < (count.toNat - 1) * s.cfg.sampleIntervalUs →
    let a := s.answer (.bulk s.cfg.regFifoData (2 + count.toNat * 7))
    a.error = false → a.block.length = 2 + count.toNat * 7 → (scanFrames s.cfg a.block count.toNat 0).1 ≠ [] →
    ∃ left, exec (.fifoRead count) s =
        .fault (.timestampUnderflow s.clockValue count.toNat s.cfg.sampleIntervalUs left) ∧
      left.out.batches = s.out.batches

/-- The timestamp law (R129): the sample from frame k has timestamp `T − (N−1−k) × I`, and one from the last frame has T
exactly; N is the transferred count, so in a truncated batch no emitted sample has T. -/
def Obligations.TimestampLaw : Prop :=
  ∀ (p : Params) (t : Time) (n : Nat) (frames : List RawSample), (n - 1) * p.sampleIntervalUs ≤ t.toNat →
    (∀ r ∈ frames, r.k < n) →
    (batchOf p t n frames).samples.length = frames.length ∧
    ∀ (j : Nat) (r : RawSample) (x : Sample), frames[j]? = some r → (batchOf p t n frames).samples[j]? = some x →
      x.t.toNat = t.toNat - (n - 1 - r.k) * p.sampleIntervalUs ∧ (r.k = n - 1 → x.t = t) ∧
      (r.k < n - 1 → 1 ≤ p.sampleIntervalUs → x.t ≠ t)

/-- The truncation law (R130, R131): a bad frame at k truncates the emission to frames 0 to k−1, which are delivered in one batch,
in order, each with its own three axis values; without a bad frame all N are. The frame at k and every later one are not
delivered, and no batch is emitted where no frame precedes the bad one. -/
def Obligations.TruncationLaw : Prop :=
  ∀ (s : State) (t : Time) (n : Nat) (buf : List Byte), buf.length = 2 + n * 7 →
    (n - 1) * s.cfg.sampleIntervalUs ≤ t.toNat →
    let valid := fun k => s.cfg.tagClass (buf.getD (2 + k * 7) 0x00#8) = .valid
    let frame := fun k : Nat =>
      ({ k := k
         x := pair (buf.getD (2 + k * 7 + 1) 0x00#8) (buf.getD (2 + k * 7 + 2) 0x00#8)
         y := pair (buf.getD (2 + k * 7 + 3) 0x00#8) (buf.getD (2 + k * 7 + 4) 0x00#8)
         z := pair (buf.getD (2 + k * 7 + 5) 0x00#8) (buf.getD (2 + k * 7 + 6) 0x00#8) } : RawSample)
    let batch := fun m : Nat => if m = 0 then [] else [batchOf s.cfg t n ((List.range m).map frame)]
    (∀ k < n, ¬ valid k → (∀ j < k, valid j) →
      ∃ u, parseBlock t n buf s = .ok (.badFrame k, u) ∧ u.out.batches = s.out.batches ++ batch k) ∧
    ((∀ k < n, valid k) → ∃ u, parseBlock t n buf s = .ok (.ok, u) ∧ u.out.batches = s.out.batches ++ batch n)

/-- FIFO_RESET (R134): one write of the flush command; on Ok, `pending` and the bad-frame streak are zero and the FIFO-reset
counter grows; on BusErr nothing more is written. -/
def Obligations.FifoResetFlushes : Prop :=
  ∀ s : State, s.cfg.harnessMode = true → clockRuns s = true →
    let a := s.answer (.write s.cfg.regCmdFlush s.cfg.valFlush)
    encode .fifoReset = 0x22#8 ++ 0x00#8 ++ 0#16 ∧
    ∃ t, exec .fifoReset s = .next t ∧ t.cfg = s.cfg ∧
      t.ctx = { s.ctx with
        tLastTick := some s.clockValue
        badframeStreak := if a.error then s.ctx.badframeStreak else 0
        cntFifoReset := if a.error then s.ctx.cntFifoReset else satInc s.ctx.cntFifoReset } ∧
      t.shared = { (s.deliver a.during).shared with
        pending := if a.error then (s.deliver a.during).shared.pending else 0#32 } ∧
      t.out = { s.out with
        busLog := s.out.busLog ++ [{ op := .writeRegister, a := s.cfg.regCmdFlush, b := s.cfg.valFlush.setWidth 16,
                                     state := s.ctx.state, result := if a.error then .busError else .ok [] }]
        lastOutcome := some (.fifoReset (if a.error then .busErr else .ok)) } ∧
      t.faults = s.faults ∧ t.env.program = s.env.program

/-- TEMPERATURE_UPDATE (R136): low byte, then high byte if the first read succeeds; on Ok the raw value, its conversion and the
time are written; on BusErr nothing is. -/
def Obligations.TemperatureUpdateStoresThePair : Prop :=
  ∀ s : State, s.cfg.harnessMode = true → clockRuns s = true →
    let lo := s.answer (.read s.cfg.regTempLo)
    let s1 := s.timed.transact (.read s.cfg.regTempLo)
    let hi := s1.answer (.read s.cfg.regTempHi)
    let failed := lo.error || hi.error
    encode .temperatureUpdate = 0x23#8 ++ 0x00#8 ++ 0#16 ∧
    ∃ t raw, exec .temperatureUpdate s = .next t ∧ raw.toNat = hi.byte.toNat * 256 + lo.byte.toNat ∧ t.cfg = s.cfg ∧
      t.ctx = (if failed then { s.ctx with tLastTick := some s.clockValue } else
        { s.ctx with
          tLastTick := some s.clockValue
          tempRaw := some raw
          temperature := some (Config.tempConvert raw)
          tTemp := some s.clockValue }) ∧
      t.out.lastOutcome = some (.temperatureUpdate (if failed then .busErr else .ok)) ∧
      t.out.busLog = (if lo.error then s1.out.busLog else (s1.transact (.read s.cfg.regTempHi)).out.busLog) ∧
      t.out.batches = s.out.batches ∧ t.out.diagnostics = s.out.diagnostics ∧ t.faults = s.faults ∧
      t.env.program = s.env.program

/-! ## The state machine -/

/-- SOFT_RESET (R145): one write of the soft-reset command, Ok or BusErr; no field of the context is written but the time of
R86. -/
def Obligations.SoftResetWritesTheCommand : Prop :=
  ∀ s : State, s.cfg.harnessMode = true → clockRuns s = true →
    let a := s.answer (.write s.cfg.regCmdSoftreset s.cfg.valSoftreset)
    encode .softReset = 0x31#8 ++ 0x00#8 ++ 0#16 ∧
    ∃ t, exec .softReset s = .next t ∧ t.cfg = s.cfg ∧ t.ctx = { s.ctx with tLastTick := some s.clockValue } ∧
      t.shared = (s.deliver a.during).shared ∧
      t.out = { s.out with
        busLog := s.out.busLog ++ [{ op := .writeRegister, a := s.cfg.regCmdSoftreset, b := s.cfg.valSoftreset.setWidth 16,
                                     state := s.ctx.state, result := if a.error then .busError else .ok [] }]
        lastOutcome := some (.softReset (if a.error then .busErr else .ok)) } ∧
      t.faults = s.faults ∧ t.env.program = s.env.program

/-- A tick with no request has no step: the task waits and nothing changes, and requests made before a tick merge into one
(R139; the state that stays is the model's reading, log entry 7). -/
def Obligations.UnrequestedTickWaits : Prop :=
  (∀ s : State, s.shared.tickRequested = false → exec .tick s = .next s) ∧
  ∀ s t : State, exec .timerExpire s = .next t → s.shared.tickRequested = true → t = s

/-- The clock rule (R140): a tick, or an operation issued alone, that draws a time before `t_last_tick` is the fault
ClockRegression, before anything else is done. That the state left has the request of a tick cleared follows the order of R141,
and that it keeps what was written before the fault and nothing after is the model's reading (log entry 13). -/
def Obligations.ClockRegressionFaults : Prop :=
  ∀ (s : State) (prev : Time), s.ctx.tLastTick = some prev → s.clockValue < prev →
    (s.shared.tickRequested = true → ∃ left, exec .tick s = .fault (.clockRegression prev s.clockValue left) ∧
      left.ctx = s.ctx ∧ left.out = s.out ∧ left.shared = { s.shared with tickRequested := false }) ∧
    ∀ i, classOf i ≠ .boundary → s.cfg.harnessMode = true →
      ∃ left, exec i s = .fault (.clockRegression prev s.clockValue left) ∧
        left.ctx = s.ctx ∧ left.out = s.out ∧ left.shared = s.shared

/-- A requested tick completes, in every state of the machine and whatever the bus answers, if the clock runs and is late enough
for the oldest timestamp of the longest batch (R25, R140, R141). -/
def Obligations.TickCompletes : Prop :=
  ∀ s : State, s.shared.tickRequested = true → clockRuns s = true →
    (s.cfg.maxSamples - 1) * s.cfg.sampleIntervalUs ≤ s.clockValue.toNat → ∃ t, exec .tick s = .next t ∧
      t.ctx.tLastTick = some s.clockValue ∧ t.cfg = s.cfg ∧ t.faults = s.faults ∧ t.env.program = s.env.program

/-- Data-ready bookkeeping (R142): a tick that consumed `pending > 0` writes the interval since the last data-ready time where
there is one, and then that time; a tick that did not leaves the interval; and the magnitude of `pending` is not used. -/
def Obligations.DataReadyBookkeeping : Prop :=
  ∀ s t : State, s.shared.tickRequested = true → exec .tick s = .next t →
    (0 < s.shared.pending.toNat → t.ctx.tDrdy = some s.clockValue ∧
      t.ctx.drdyIntervalLast = (match s.ctx.tDrdy with
        | none => s.ctx.drdyIntervalLast
        | some d => some (s.clockValue - d))) ∧
    (s.shared.pending = 0#32 → t.ctx.drdyIntervalLast = s.ctx.drdyIntervalLast) ∧
    ∀ q : BitVec 32, 0 < s.shared.pending.toNat → 0 < q.toNat → exec .tick { s with shared.pending := q } = .next t

/-- The RESET arm (R146): one soft-reset write; on Ok the reset time is recorded and the state moves to WAIT_FOR_RESET; on a bus
error the state stays RESET, and the reset time too. Nothing else of the context is written beyond the prologue of the tick. -/
def Obligations.ResetTick : Prop :=
  ∀ s : State, s.shared.tickRequested = true → clockRuns s = true → s.ctx.state = .reset →
    let a := s.answer (.write s.cfg.regCmdSoftreset s.cfg.valSoftreset)
    ∃ t, exec .tick s = .next t ∧
      t.ctx = (if a.error then (prologue s).ctx
        else { (prologue s).ctx with tReset := some s.clockValue, state := .waitForReset }) ∧
      t.out = { s.out with
        busLog := s.out.busLog ++ [{ op := .writeRegister, a := s.cfg.regCmdSoftreset, b := s.cfg.valSoftreset.setWidth 16,
                                     state := .reset, result := if a.error then .busError else .ok [] }] } ∧
      t.cfg = s.cfg ∧ t.faults = s.faults ∧ t.env.program = s.env.program

/-- The WAIT_FOR_RESET arm (R147, R148): before the minimum settle time nothing; then, with no probe or a probe that reads the
expected masked value, CONFIGURE with the failure streak cleared; else, after the maximum wait, Fatal, which also drops
`pending`; else nothing. A bus error of the probe counts as not settled. -/
def Obligations.WaitForResetTick : Prop :=
  ∀ (s : State) (since : Time), s.shared.tickRequested = true → clockRuns s = true → s.ctx.state = .waitForReset →
    s.ctx.tReset = some since → since ≤ s.clockValue →
    let e := (s.clockValue - since).toNat
    let a := s.answer (.read s.cfg.resetProbeReg)
    let settled := s.cfg.resetProbeMask == 0x00#8 ||
      (!a.error && (a.byte &&& s.cfg.resetProbeMask == s.cfg.resetProbeValue))
    ∃ t, exec .tick s = .next t ∧
      t.ctx = (if e < s.cfg.settleMinUs then (prologue s).ctx
        else if settled then { (prologue s).ctx with state := .configure, configFailStreak := 0 }
        else if s.cfg.resetMaxWaitUs < e then
          { (prologue s).ctx with initFailed := true, drdyEnabled := false, timerEnabled := false, state := .stopped }
        else (prologue s).ctx) ∧
      (¬ e < s.cfg.settleMinUs → settled = false → s.cfg.resetMaxWaitUs < e → t.shared.pending = 0#32) ∧
      requests t.out.busLog = requests s.out.busLog ++
        (if e < s.cfg.settleMinUs ∨ s.cfg.resetProbeMask = 0x00#8 then [] else [(.readRegister, s.cfg.resetProbeReg)]) ∧
      t.out.batches = s.out.batches ∧ t.out.diagnostics = s.out.diagnostics ∧ t.cfg = s.cfg ∧ t.faults = s.faults

/-- The CONFIGURE arm (R149, R150): it completes; on Success EnterFifoRead; on a failure of either kind the streak grows, and at
the ceiling EnterReset. The transactions and the bad-register counter are those of Configure. -/
def Obligations.ConfigureTick : Prop :=
  ∀ s : State, s.shared.tickRequested = true → clockRuns s = true → s.ctx.state = .configure →
    let u := (configure (prologue s)).2
    ∃ t, exec .tick s = .next t ∧ t.out = u.out ∧
      ((configure (prologue s)).1 = .success →
        t.ctx = { u.ctx with
          state := .fifoRead
          configFailStreak := 0
          drdyEnabled := s.cfg.drdyAvailable
          tDrdy := some s.clockValue
          busErrorStreak := 0
          badframeStreak := 0 }) ∧
      ((configure (prologue s)).1 ≠ .success → s.ctx.configFailStreak + 1 < s.cfg.configAttemptMax →
        t.ctx = { u.ctx with configFailStreak := s.ctx.configFailStreak + 1 }) ∧
      ((configure (prologue s)).1 ≠ .success → s.cfg.configAttemptMax ≤ s.ctx.configFailStreak + 1 →
        t.ctx = { u.ctx with
          state := .reset
          cursor := 0
          drdyEnabled := false
          configFailStreak := 0
          busErrorStreak := 0
          badframeStreak := 0 } ∧ t.shared.pending = 0#32)

/-- A drifted register (R153, R125): a FIFO_READ tick whose register check is due and finds a value that does not satisfy the
entry moves to CONFIGURE with the mismatch counted, and issues that one read alone: no FIFO work and no temperature update. The
cursor survives unless CURSOR_RESET_ON_CONFIGURE is set. -/
def Obligations.MismatchTickReconfigures : Prop :=
  ∀ (s : State) (e : RegisterConfigEntry), s.shared.tickRequested = true → clockRuns s = true → s.ctx.state = .fifoRead →
    due s.cfg.cfgCheckIntervalUs s.clockValue s.ctx.tCfgCheck = true → s.cfg.table[s.ctx.cursor]? = some e →
    let a := s.answer (.read e.reg)
    a.error = false → satisfied e a.byte = false →
    ∃ t, exec .tick s = .next t ∧
      t.ctx = { (prologue s).ctx with
        tCfgCheck := some s.clockValue
        cntBadRegister := satInc s.ctx.cntBadRegister
        state := .configure
        cursor := if s.cfg.cursorResetOnConfigure then 0 else (s.ctx.cursor + 1) % s.cfg.table.length } ∧
      t.out = { s.out with
        busLog := s.out.busLog ++ [{ op := .readRegister, a := e.reg, b := 0#16, state := .fifoRead,
                                     result := .ok [a.byte] }] } ∧
      t.cfg = s.cfg ∧ t.faults = s.faults

/-- The bus-error streak (R157). In every FIFO_READ tick that answers a next state, no transaction follows one that failed,
whichever step it belongs to; a tick that met a bus error adds one to the streak, and at the threshold does EnterReset; a tick
without one sets the streak to 0; a tick that a mismatch ended leaves it. In particular a tick whose register check meets a bus
error issues no further transaction. -/
def Obligations.BusErrorTickEndsItsBusActivity : Prop :=
  (∀ s t : State, s.shared.tickRequested = true → s.ctx.state = .fifoRead → exec .tick s = .next t →
    ∃ new, t.out.busLog = s.out.busLog ++ new ∧ (∀ e ∈ new.dropLast, e.result ≠ .busError) ∧
      (let met := ∃ e, new.getLast? = some e ∧ e.result = .busError
      (t.ctx.state = .configure → ¬ met ∧ t.ctx.busErrorStreak = s.ctx.busErrorStreak) ∧
      (t.ctx.state ≠ .configure → ¬ met → t.ctx.state = .fifoRead ∧ t.ctx.busErrorStreak = 0) ∧
      (met → s.ctx.busErrorStreak + 1 < s.cfg.busErrorResetThreshold →
        t.ctx.state = .fifoRead ∧ t.ctx.busErrorStreak = s.ctx.busErrorStreak + 1) ∧
      (met → s.cfg.busErrorResetThreshold ≤ s.ctx.busErrorStreak + 1 →
        t.ctx.state = .reset ∧ t.ctx.cursor = 0 ∧ t.ctx.drdyEnabled = false ∧ t.ctx.configFailStreak = 0 ∧
          t.ctx.busErrorStreak = 0 ∧ t.ctx.badframeStreak = 0 ∧ t.shared.pending = 0#32))) ∧
  ∀ (s : State) (e : RegisterConfigEntry), s.shared.tickRequested = true → clockRuns s = true → s.ctx.state = .fifoRead →
    due s.cfg.cfgCheckIntervalUs s.clockValue s.ctx.tCfgCheck = true → s.cfg.table[s.ctx.cursor]? = some e →
    (s.answer (.read e.reg)).error = true →
    ∃ t, exec .tick s = .next t ∧
      t.out = { s.out with
        busLog := s.out.busLog ++ [{ op := .readRegister, a := e.reg, b := 0#16, state := .fifoRead,
                                     result := .busError }] } ∧
      t.ctx = (if s.ctx.busErrorStreak + 1 < s.cfg.busErrorResetThreshold then
        { (prologue s).ctx with
          tCfgCheck := some s.clockValue
          cursor := (s.ctx.cursor + 1) % s.cfg.table.length
          busErrorStreak := s.ctx.busErrorStreak + 1 }
        else
        { (prologue s).ctx with
          tCfgCheck := some s.clockValue
          state := .reset
          cursor := 0
          drdyEnabled := false
          configFailStreak := 0
          busErrorStreak := 0
          badframeStreak := 0 })

/-- The FIFO_READ tick that no mismatch and no bus error of its register check ends (R151, R152, R154). The check, where it is due,
reads one register and writes its time and the cursor. Then FIFO work runs exactly if the data-ready path is disabled, the tick
consumed an event, or more than 2 × the expected interval has passed, which is a stall and sets the data-ready time to `now`; the
temperature step and the accounting follow. Without FIFO work and with the temperature not due, nothing more of the context
changes than the bus-error streak. -/
def Obligations.FifoWorkIsPacedByDataReady : Prop :=
  ∀ s : State, s.shared.tickRequested = true → clockRuns s = true → s.ctx.state = .fifoRead →
    (checkStep s.clockValue (prologue s)).1 = .matched →
    let u := (checkStep s.clockValue (prologue s)).2
    let checked := due s.cfg.cfgCheckIntervalUs s.clockValue s.ctx.tCfgCheck
    let stall := s.ctx.drdyEnabled = true ∧ s.shared.pending = 0#32 ∧
      2 * s.cfg.drdyExpectedIntervalUs < elapsedOpt s.clockValue s.ctx.tDrdy
    let work := s.ctx.drdyEnabled = false ∨ s.shared.pending ≠ 0#32 ∨ stall
    let start := fun v : State => exec .tick s = taskResult ((fifoWork s.clockValue v).map fun r =>
      finishFifoRead s.clockValue r.1 r.2)
    u.ctx = (if checked then
      { (prologue s).ctx with
        tCfgCheck := some s.clockValue
        cursor := (s.ctx.cursor + 1) % s.cfg.table.length }
      else (prologue s).ctx) ∧
    requests u.out.busLog = requests s.out.busLog ++
      (if checked then [(.readRegister, (tableEntry s.cfg.table s.ctx.cursor).reg)] else []) ∧
    (stall → start { u with ctx.tDrdy := some s.clockValue }) ∧
    (work → ¬ stall → start u) ∧
    (¬ work → exec .tick s = .next (finishFifoRead s.clockValue false u)) ∧
    (¬ work → due s.cfg.tempIntervalUs s.clockValue s.ctx.tTemp = false →
      ∃ t, exec .tick s = .next t ∧ t.ctx = { u.ctx with busErrorStreak := 0 } ∧ t.out = u.out)

/-- FIFO outcome handling in a tick (R155): a count leads to FifoRead in the same tick, Empty to nothing, Overflow to FifoReset and
no FifoRead; a FifoRead that ends Ok clears the bad-frame streak; one that ends BadFrame or BadLength adds one to it, and at the
threshold a FifoReset runs in the same tick, which clears the streak on Ok and leaves it on a bus error. Each ends in steps 3 and
4 of the tick, with the flag that says whether a bus error occurred. -/
def Obligations.FifoOutcomesInATick : Prop :=
  ∀ s : State, s.shared.tickRequested = true → clockRuns s = true → s.ctx.state = .fifoRead →
    (checkStep s.clockValue (prologue s)).1 = .matched → fifoWorkAt s = true →
    let counted := readFifoCount (workStart s)
    let ends := fun (busErr : Bool) (v : State) => exec .tick s = .next (finishFifoRead s.clockValue busErr v)
    let flush := fun v : State => ends ((fifoReset v).1 == .busErr) (fifoReset v).2
    (counted.1 = .busErr → ends true counted.2) ∧
    (counted.1 = .empty → ends false counted.2) ∧
    (counted.1 = .overflow → flush counted.2) ∧
    ∀ n, counted.1 = .count n →
      (∀ f, fifoRead s.clockValue n counted.2 = .error f → exec .tick s = .fault f) ∧
      ∀ (r : FifoReadOutcome) (v : State), fifoRead s.clockValue n counted.2 = .ok (r, v) →
        let worse := { v with ctx.badframeStreak := s.ctx.badframeStreak + 1 }
        (r = .ok → ends false { v with ctx.badframeStreak := 0 }) ∧
        (r = .busErr → ends true v) ∧
        ((∃ k, r = .badFrame k) ∨ r = .badLength →
          (s.ctx.badframeStreak + 1 < s.cfg.badframeResetThreshold → ends false worse) ∧
          (s.cfg.badframeResetThreshold ≤ s.ctx.badframeStreak + 1 → flush worse ∧
            (fifoReset worse).2.ctx.badframeStreak =
              if (fifoReset worse).1 = .ok then 0 else s.ctx.badframeStreak + 1))

/-- The temperature update in a tick (R156): after the register check and the FIFO work, done or not, it runs where no bus error
has occurred and it is due, that is if there was none or TEMP_INTERVAL_US has passed; it reads the pair, low byte first, and
stores it with its conversion and the time. After a bus error, or where it is not due, only the accounting follows. -/
def Obligations.TemperatureUpdateInATick : Prop :=
  (∀ (interval : Nat) (now since : Time), due interval now none = true ∧
    (since ≤ now → (due interval now (some since) = true ↔ interval ≤ (now - since).toNat))) ∧
  ∀ s : State, s.shared.tickRequested = true → clockRuns s = true → s.ctx.state = .fifoRead →
    ((checkStep s.clockValue (prologue s)).1 = .busErr → exec .tick s = .next ((afterCheck s).accountBusError true)) ∧
    ((checkStep s.clockValue (prologue s)).1 = .matched →
      ∀ (busErr : Bool) (v : State), afterWork s = .ok (busErr, v) →
        let lo := v.answer (.read s.cfg.regTempLo)
        let hi := (v.transact (.read s.cfg.regTempLo)).answer (.read s.cfg.regTempHi)
        let failed := lo.error || hi.error
        let run := !busErr && due s.cfg.tempIntervalUs s.clockValue s.ctx.tTemp
        (run = false → exec .tick s = .next (v.accountBusError busErr)) ∧
        (run = true → ∃ t raw, exec .tick s = .next t ∧ raw.toNat = hi.byte.toNat * 256 + lo.byte.toNat ∧
          requests t.out.busLog = requests v.out.busLog ++ (.readRegister, s.cfg.regTempLo) ::
            (if lo.error then [] else [(.readRegister, s.cfg.regTempHi)]) ∧
          (failed = false → t.ctx = { v.ctx with
            tempRaw := some raw
            temperature := some (Config.tempConvert raw)
            tTemp := some s.clockValue
            busErrorStreak := 0 }) ∧
          (failed = true → t.ctx = (v.accountBusError true).ctx)))

/-- The REQUEST_STOP and STOPPED arms (R158, R159): no bus transaction; a stop masks both sources, drops `pending` and stops; a
tick in STOPPED does nothing beyond the prologue. -/
def Obligations.StoppingTicks : Prop :=
  ∀ s : State, s.shared.tickRequested = true → clockRuns s = true →
    (s.ctx.state = .requestStop → ∃ t, exec .tick s = .next t ∧ t.out = s.out ∧ t.cfg = s.cfg ∧ t.faults = s.faults ∧
      t.ctx = { (prologue s).ctx with drdyEnabled := false, timerEnabled := false, state := .stopped } ∧
      t.shared = { pending := 0#32, tickRequested := false }) ∧
    (s.ctx.state = .stopped → exec .tick s = .next (prologue s) ∧ (prologue s).out = s.out ∧
      (prologue s).shared = { pending := 0#32, tickRequested := false } ∧
      (s.shared.pending = 0#32 → (prologue s).ctx = { s.ctx with tLastTick := some s.clockValue }))

/-! ## Events and commands -/

/-- DRDY_SIGNAL (R160): while the line is masked nothing changes; else `pending` grows by WATERMARK_SAMPLES, saturating at
2^32 − 1, and a tick is requested; nothing else changes. -/
def Obligations.DataReadySignal : Prop :=
  ∀ s : State,
    encode .drdySignal = 0x40#8 ++ 0x00#8 ++ 0#16 ∧
    (s.ctx.drdyEnabled = false → exec .drdySignal s = .next s) ∧
    (s.ctx.drdyEnabled = true → ∃ t, exec .drdySignal s = .next t ∧
      t.shared.pending.toNat = min (s.shared.pending.toNat + s.cfg.watermarkSamples) (2 ^ 32 - 1) ∧
      t = { s with shared := { pending := t.shared.pending, tickRequested := true } })

/-- TIMER_EXPIRE (R161): while the timer is masked nothing changes; else a tick is requested, and nothing else changes. -/
def Obligations.TimerExpiry : Prop :=
  ∀ s : State,
    encode .timerExpire = 0x41#8 ++ 0x00#8 ++ 0#16 ∧
    (s.ctx.timerEnabled = false → exec .timerExpire s = .next s) ∧
    (s.ctx.timerEnabled = true → exec .timerExpire s = .next { s with shared.tickRequested := true })

/-- CMD_START (R163): no effect outside STOPPED; from STOPPED the fields of EnterReset, the failure forgotten, the timer unmasked
and a tick requested; nothing else changes. -/
def Obligations.CmdStart : Prop :=
  ∀ s : State,
    encode .cmdStart = 0x50#8 ++ 0x00#8 ++ 0#16 ∧
    (s.ctx.state ≠ .stopped → exec .cmdStart s = .next s) ∧
    (s.ctx.state = .stopped → exec .cmdStart s = .next { s with
      ctx := { s.ctx with
        state := .reset
        cursor := 0
        drdyEnabled := false
        configFailStreak := 0
        busErrorStreak := 0
        badframeStreak := 0
        initFailed := false
        timerEnabled := true }
      shared := { pending := 0#32, tickRequested := true } })

/-- CMD_STOP (R164): no effect in STOPPED; else REQUEST_STOP and a tick request; nothing else changes. -/
def Obligations.CmdStop : Prop :=
  ∀ s : State,
    encode .cmdStop = 0x51#8 ++ 0x00#8 ++ 0#16 ∧
    (s.ctx.state = .stopped → exec .cmdStop s = .next s) ∧
    (s.ctx.state ≠ .stopped →
      exec .cmdStop s = .next { s with ctx.state := .requestStop, shared.tickRequested := true })

/-- CMD_RESET (R165): in every state the fields of EnterReset, the five counters zero, the failure forgotten, the timer unmasked
and a tick requested; nothing else changes. -/
def Obligations.CmdReset : Prop :=
  ∀ s : State,
    encode .cmdReset = 0x52#8 ++ 0x00#8 ++ 0#16 ∧
    exec .cmdReset s = .next { s with
      ctx := { s.ctx with
        state := .reset
        cursor := 0
        drdyEnabled := false
        configFailStreak := 0
        busErrorStreak := 0
        badframeStreak := 0
        cntBadRegister := 0#64
        cntBadTransfer := 0#64
        cntFifoEmpty := 0#64
        cntFifoOverflow := 0#64
        cntFifoReset := 0#64
        initFailed := false
        timerEnabled := true }
      shared := { pending := 0#32, tickRequested := true } }

/-- CMD_PRINT_DIAGNOSTICS (R166): one snapshot, with the fields of R52 in their order, and nothing else; no tick is requested. -/
def Obligations.CmdPrintDiagnostics : Prop :=
  ∀ s : State,
    encode .cmdPrintDiagnostics = 0x53#8 ++ 0x00#8 ++ 0#16 ∧
    exec .cmdPrintDiagnostics s = .next { s with out.diagnostics := s.out.diagnostics ++ [
      ⟨stateCode s.ctx.state, s.ctx.cursor, s.ctx.drdyEnabled, s.ctx.timerEnabled, s.ctx.initFailed,
        s.ctx.cntBadRegister, s.ctx.cntBadTransfer, s.ctx.cntFifoEmpty, s.ctx.cntFifoOverflow, s.ctx.cntFifoReset,
        s.ctx.drdyIntervalLast, s.ctx.tempRaw, s.ctx.temperature, s.ctx.configFailStreak, s.ctx.busErrorStreak,
        s.ctx.badframeStreak, s.ctx.tReset, s.ctx.tCfgCheck, s.ctx.tDrdy, s.ctx.tTemp⟩] }

/-! ## The whole machine -/

/-- The transition table (R167): every change of `ctx.state` is a row of the table, with its cause, and the state at creation is
RESET; nothing else changes it. The only ways into WAIT_FOR_RESET and FIFO_READ leave a reset time and a data-ready time. -/
def Obligations.TransitionTable : Prop :=
  (∀ p, (State.create p).ctx.state = .reset) ∧
  ∀ (i : Instr) (s t : State), exec i s = .next t → t.ctx.state ≠ s.ctx.state →
    StateChange i s t ∧ (t.ctx.state = .waitForReset → t.ctx.tReset ≠ none) ∧
      (t.ctx.state = .fifoRead → t.ctx.tDrdy ≠ none)

/-- The invariant of the machine is kept by every step, from every state that meets it. -/
def Obligations.StepKeepsTheInvariant : Prop :=
  ∀ s t : State, Inv s → step s = .next t → Inv t

/-- The invariant holds at creation under every well-formed parameter set, and at reset, which is creation under the spec's
example parameters (log entry 1). -/
def Obligations.ResetMeetsTheInvariant : Prop :=
  (∀ p : Params, p.wf = true → Inv (State.create p)) ∧ Inv State.reset ∧ State.reset = State.create Params.vectors

/-- FIFO reads only in FIFO_READ (R168): with HARNESS_MODE false, every step keeps it that each bulk transfer and each read of
the FIFO-length pair in the bus history has state FIFO_READ; at creation the history is empty. -/
def Obligations.FifoAccessStaysInFifoRead : Prop :=
  (∀ p, FifoAccessOnlyInFifoRead (State.create p)) ∧
  ∀ s t : State, s.cfg.harnessMode = false → FifoAccessOnlyInFifoRead s → step s = .next t →
    FifoAccessOnlyInFifoRead t

/-- The consumer sees valid batches or silence (R170, R180): every step keeps it that every batch handed over is not empty, no
longer than the capacities allow, with timestamps one interval apart, oldest first, and scaled axis values. -/
def Obligations.ConsumerSeesValidBatches : Prop :=
  (∀ p, BatchesOk (State.create p)) ∧
  ∀ s t : State, s.cfg.wf = true → BatchesOk s → step s = .next t → BatchesOk t

/-- Accounting (R40): only CMD_RESET lowers a counter. -/
def Obligations.CountersAreMonotonic : Prop :=
  ∀ (i : Instr) (s t : State), exec i s = .next t → i ≠ .cmdReset → CountersKept s.ctx t.ctx

/-- The histories are append-only (R50, R51, R57), and no operation writes the parameters, TABLE among them (R30). -/
def Obligations.HistoriesAppendOnly : Prop :=
  ∀ (i : Instr) (s t : State), exec i s = .next t → HistoryKept s.out t.out ∧ t.cfg = s.cfg

/-- Creation (R55). -/
def Obligations.CreationValues : Prop :=
  ∀ p : Params,
    (State.create p).ctx = {
      state := .reset, cursor := 0, drdyEnabled := false, timerEnabled := true, initFailed := false
      tReset := none, tCfgCheck := none, tDrdy := none, tTemp := none, tLastTick := none
      cntBadRegister := 0#64, cntBadTransfer := 0#64, cntFifoEmpty := 0#64, cntFifoOverflow := 0#64, cntFifoReset := 0#64
      configFailStreak := 0, busErrorStreak := 0, badframeStreak := 0
      tempRaw := none, temperature := none, drdyIntervalLast := none } ∧
    (State.create p).shared = { pending := 0#32, tickRequested := true } ∧ (State.create p).out.batches = [] ∧
    (State.create p).out.diagnostics = [] ∧ (State.create p).faults = []

/-- The codes of the six states (R101), of the seven error classes (R103) and of the outcomes (R104), each with its number; the
codes 6 and 7 are no state; and an outcome's code is the code of the error class it reports, and 0 where it reports none. -/
def Obligations.CodesAgree : Prop :=
  (stateCode .reset = 0#3 ∧ stateCode .waitForReset = 1#3 ∧ stateCode .configure = 2#3 ∧ stateCode .fifoRead = 3#3 ∧
    stateCode .requestStop = 4#3 ∧ stateCode .stopped = 5#3) ∧
  ((∀ st : AcqState, stateOfCode (stateCode st) = some st) ∧ stateOfCode 6#3 = none ∧ stateOfCode 7#3 = none) ∧
  (errorCode .busError = 1 ∧ errorCode .configMismatch = 2 ∧ errorCode .badFrame = 3 ∧ errorCode .overflow = 4 ∧
    errorCode .initializationTimeout = 5 ∧ errorCode .badLength = 6 ∧ errorCode .fifoEmpty = 7) ∧
  ((∀ bytes, (BusResult.ok bytes).code = 0) ∧ BusResult.busError.code = 1 ∧
    ConfigureOutcome.success.code = 0 ∧ ConfigureOutcome.failBusError.code = 1 ∧ ConfigureOutcome.failMismatch.code = 2 ∧
    CheckOutcome.matched.code = 0 ∧ CheckOutcome.busErr.code = 1 ∧ CheckOutcome.mismatch.code = 2 ∧
    (∀ n, (CountOutcome.count n).code = 0) ∧ CountOutcome.busErr.code = 1 ∧ CountOutcome.overflow.code = 4 ∧
    CountOutcome.empty.code = 7 ∧
    FifoReadOutcome.ok.code = 0 ∧ FifoReadOutcome.busErr.code = 1 ∧ (∀ k, (FifoReadOutcome.badFrame k).code = 3) ∧
    FifoReadOutcome.badLength.code = 6 ∧ UnitOutcome.ok.code = 0 ∧ UnitOutcome.busErr.code = 1) ∧
  ∀ r : OpOutcome, r.code = (match r with
      | .readRegister x => x.code
      | .writeRegister x => x.code
      | .bulkTransfer x => x.code
      | .configure x => x.code
      | .registerCheck x => x.code
      | .readFifoCount x => x.code
      | .fifoRead x => x.code
      | .fifoReset x => x.code
      | .temperatureUpdate x => x.code
      | .softReset x => x.code) ∧
    r.code = (r.errorClass.map errorCode).getD 0
end

