-- ==== Sys2Proof/Laws/Arith.lean ====
section
/-!
SUPPORT. The small facts of saturating arithmetic, register pairs and table entries.
-/

namespace Sys2Proof.Machine

/-- A saturating increment never lowers a counter (R40). -/
theorem le_satInc {w : Nat} (c : BitVec w) : c ≤ satInc c := by
  unfold satInc
  split
  · rename_i h
    have hp : 0 < 2 ^ w := Nat.two_pow_pos w
    rw [BitVec.le_def, BitVec.toNat_add, BitVec.toNat_ofNat]
    rcases Nat.lt_or_ge 1 (2 ^ w) with h1 | h1
    · rw [Nat.mod_eq_of_lt h1, Nat.mod_eq_of_lt (by omega)]; omega
    · omega
  · exact BitVec.le_refl c

/-- Below the top, `satinc` adds one. -/
theorem satInc_toNat {w : Nat} (c : BitVec w) (h : c.toNat < 2 ^ w - 1) : (satInc c).toNat = c.toNat + 1 := by
  rcases Nat.lt_or_ge 1 (2 ^ w) with h1 | h1
  · simp only [satInc, h, if_true, BitVec.toNat_add, BitVec.toNat_ofNat]
    rw [Nat.mod_eq_of_lt h1, Nat.mod_eq_of_lt (by omega)]
  · omega

/-- At the top, `satinc` keeps the counter (R12). -/
theorem satInc_top {w : Nat} (c : BitVec w) (h : 2 ^ w - 1 ≤ c.toNat) : satInc c = c := by
  simp [satInc, Nat.not_lt.mpr h]

/-- The pending count after a saturating addition (R45, R160). -/
theorem satAdd32_toNat (c : BitVec 32) (n : Nat) : (satAdd32 c n).toNat = min (c.toNat + n) (2 ^ 32 - 1) := by
  rw [satAdd32, BitVec.toNat_ofNat, Nat.mod_eq_of_lt (by omega)]

/-- A saturating addition never lowers the pending count (R45). -/
theorem le_satAdd32 (c : BitVec 32) (n : Nat) : c ≤ satAdd32 c n := by
  have := c.isLt
  rw [BitVec.le_def, satAdd32_toNat]
  omega

/-- The written value of a bus event, zero-extended, as two bytes (R57, R114). -/
theorem zext_eq_append (b : Byte) : b.setWidth 16 = 0x00#8 ++ b := by
  have hb := b.isLt
  apply BitVec.eq_of_toNat_eq
  rw [BitVec.toNat_setWidth, BitVec.toNat_append]
  simp
  omega

/-- A register pair as a number: `hi × 256 + lo` (R96). -/
theorem pair_toNat (lo hi : Byte) : (pair lo hi).toNat = hi.toNat * 256 + lo.toNat := by
  have hl := lo.isLt
  have hh := hi.isLt
  have e : pair lo hi = hi ++ lo := by
    apply BitVec.eq_of_getLsbD_eq
    intro i hi'
    simp only [pair, BitVec.getLsbD_or, BitVec.getLsbD_shiftLeft, BitVec.getLsbD_setWidth, BitVec.getLsbD_append]
    by_cases h8 : i < 8
    · simp [h8, hi']
    · have : i - 8 < 16 := by omega
      have hl : lo.getLsbD i = false := BitVec.getLsbD_of_ge lo i (by omega)
      simp [h8, hi', this, hl]
  rw [e, BitVec.toNat_append, Nat.shiftLeft_eq, Nat.or_comm, Nat.mul_comm]
  rw [Nat.lor_comm, ← Nat.two_pow_add_eq_or_of_lt (by omega)]

/-- An entry is satisfied exactly when its set bits are all 1 and its clear bits all 0 (R32). -/
theorem satisfied_iff (e : RegisterConfigEntry) (r : Byte) :
    satisfied e r = true ↔ r &&& e.setBits = e.setBits ∧ r &&& e.clearBits = 0x00#8 := by
  simp [satisfied]

/-- Where the clock has not run back, elapsed time is the difference (R14, R140). -/
theorem elapsed_of_le {now since : Time} (h : since ≤ now) : elapsed now since = (now - since).toNat := by
  rw [elapsed, BitVec.toNat_sub_of_le h]

end Sys2Proof.Machine
end

