-- ==== Sys2Proof/Laws/State.lean ====
section
/-!
SUPPORT. What each named update of the state does to each of its six parts, so that no proof unfolds a record update.
-/

namespace Sys2Proof.Machine

@[simp] theorem State.requestTick_cfg (s : State) : s.requestTick.cfg = s.cfg := rfl
@[simp] theorem State.requestTick_ctx (s : State) : s.requestTick.ctx = s.ctx := rfl
@[simp] theorem State.requestTick_shared (s : State) : s.requestTick.shared = { s.shared with tickRequested := true } := rfl
@[simp] theorem State.requestTick_out (s : State) : s.requestTick.out = s.out := rfl
@[simp] theorem State.requestTick_faults (s : State) : s.requestTick.faults = s.faults := rfl
@[simp] theorem State.requestTick_env (s : State) : s.requestTick.env = s.env := rfl

@[simp] theorem State.clearPending_cfg (s : State) : s.clearPending.cfg = s.cfg := rfl
@[simp] theorem State.clearPending_ctx (s : State) : s.clearPending.ctx = s.ctx := rfl
@[simp] theorem State.clearPending_shared (s : State) : s.clearPending.shared = { s.shared with pending := 0#32 } := rfl
@[simp] theorem State.clearPending_out (s : State) : s.clearPending.out = s.out := rfl
@[simp] theorem State.clearPending_faults (s : State) : s.clearPending.faults = s.faults := rfl
@[simp] theorem State.clearPending_env (s : State) : s.clearPending.env = s.env := rfl

@[simp] theorem State.countBadRegister_cfg (s : State) : s.countBadRegister.cfg = s.cfg := rfl
@[simp] theorem State.countBadRegister_ctx (s : State) :
    s.countBadRegister.ctx =
      { s.ctx with cntBadRegister := satInc s.ctx.cntBadRegister } := rfl
@[simp] theorem State.countBadRegister_shared (s : State) : s.countBadRegister.shared = s.shared := rfl
@[simp] theorem State.countBadRegister_out (s : State) : s.countBadRegister.out = s.out := rfl
@[simp] theorem State.countBadRegister_faults (s : State) : s.countBadRegister.faults = s.faults := rfl
@[simp] theorem State.countBadRegister_env (s : State) : s.countBadRegister.env = s.env := rfl

@[simp] theorem State.countBadTransfer_cfg (s : State) : s.countBadTransfer.cfg = s.cfg := rfl
@[simp] theorem State.countBadTransfer_ctx (s : State) :
    s.countBadTransfer.ctx =
      { s.ctx with cntBadTransfer := satInc s.ctx.cntBadTransfer } := rfl
@[simp] theorem State.countBadTransfer_shared (s : State) : s.countBadTransfer.shared = s.shared := rfl
@[simp] theorem State.countBadTransfer_out (s : State) : s.countBadTransfer.out = s.out := rfl
@[simp] theorem State.countBadTransfer_faults (s : State) : s.countBadTransfer.faults = s.faults := rfl
@[simp] theorem State.countBadTransfer_env (s : State) : s.countBadTransfer.env = s.env := rfl

@[simp] theorem State.countFifoEmpty_cfg (s : State) : s.countFifoEmpty.cfg = s.cfg := rfl
@[simp] theorem State.countFifoEmpty_ctx (s : State) :
    s.countFifoEmpty.ctx =
      { s.ctx with cntFifoEmpty := satInc s.ctx.cntFifoEmpty } := rfl
@[simp] theorem State.countFifoEmpty_shared (s : State) : s.countFifoEmpty.shared = s.shared := rfl
@[simp] theorem State.countFifoEmpty_out (s : State) : s.countFifoEmpty.out = s.out := rfl
@[simp] theorem State.countFifoEmpty_faults (s : State) : s.countFifoEmpty.faults = s.faults := rfl
@[simp] theorem State.countFifoEmpty_env (s : State) : s.countFifoEmpty.env = s.env := rfl

@[simp] theorem State.countFifoOverflow_cfg (s : State) : s.countFifoOverflow.cfg = s.cfg := rfl
@[simp] theorem State.countFifoOverflow_ctx (s : State) :
    s.countFifoOverflow.ctx =
      { s.ctx with cntFifoOverflow := satInc s.ctx.cntFifoOverflow } := rfl
@[simp] theorem State.countFifoOverflow_shared (s : State) : s.countFifoOverflow.shared = s.shared := rfl
@[simp] theorem State.countFifoOverflow_out (s : State) : s.countFifoOverflow.out = s.out := rfl
@[simp] theorem State.countFifoOverflow_faults (s : State) : s.countFifoOverflow.faults = s.faults := rfl
@[simp] theorem State.countFifoOverflow_env (s : State) : s.countFifoOverflow.env = s.env := rfl

@[simp] theorem State.countFifoReset_cfg (s : State) : s.countFifoReset.cfg = s.cfg := rfl
@[simp] theorem State.countFifoReset_ctx (s : State) :
    s.countFifoReset.ctx =
      { s.ctx with cntFifoReset := satInc s.ctx.cntFifoReset } := rfl
@[simp] theorem State.countFifoReset_shared (s : State) : s.countFifoReset.shared = s.shared := rfl
@[simp] theorem State.countFifoReset_out (s : State) : s.countFifoReset.out = s.out := rfl
@[simp] theorem State.countFifoReset_faults (s : State) : s.countFifoReset.faults = s.faults := rfl
@[simp] theorem State.countFifoReset_env (s : State) : s.countFifoReset.env = s.env := rfl

@[simp] theorem State.clocked_cfg (s : State) : s.clocked.cfg = s.cfg := rfl
@[simp] theorem State.clocked_ctx (s : State) : s.clocked.ctx = s.ctx := rfl
@[simp] theorem State.clocked_shared (s : State) : s.clocked.shared = s.shared := rfl
@[simp] theorem State.clocked_out (s : State) : s.clocked.out = s.out := rfl
@[simp] theorem State.clocked_faults (s : State) : s.clocked.faults = s.faults := rfl
@[simp] theorem State.clocked_env (s : State) : s.clocked.env = s.env.clocked := rfl

@[simp] theorem State.timed_cfg (s : State) : s.timed.cfg = s.cfg := rfl
@[simp] theorem State.timed_ctx (s : State) : s.timed.ctx = { s.ctx with tLastTick := some s.clockValue } := rfl
@[simp] theorem State.timed_shared (s : State) : s.timed.shared = s.shared := rfl
@[simp] theorem State.timed_out (s : State) : s.timed.out = s.out := rfl
@[simp] theorem State.timed_faults (s : State) : s.timed.faults = s.faults := rfl
@[simp] theorem State.timed_env (s : State) : s.timed.env = s.env.clocked := rfl

@[simp] theorem State.enterReset_cfg (s : State) : s.enterReset.cfg = s.cfg := rfl
@[simp] theorem State.enterReset_ctx (s : State) :
    s.enterReset.ctx =
      { s.ctx with
        state := .reset, cursor := 0, drdyEnabled := false
        configFailStreak := 0, busErrorStreak := 0, badframeStreak := 0 } := rfl
@[simp] theorem State.enterReset_shared (s : State) : s.enterReset.shared = { s.shared with pending := 0#32 } := rfl
@[simp] theorem State.enterReset_out (s : State) : s.enterReset.out = s.out := rfl
@[simp] theorem State.enterReset_faults (s : State) : s.enterReset.faults = s.faults := rfl
@[simp] theorem State.enterReset_env (s : State) : s.enterReset.env = s.env := rfl

@[simp] theorem State.fatal_cfg (s : State) : s.fatal.cfg = s.cfg := rfl
@[simp] theorem State.fatal_ctx (s : State) :
    s.fatal.ctx =
      { s.ctx with initFailed := true, drdyEnabled := false, timerEnabled := false, state := .stopped } := rfl
@[simp] theorem State.fatal_shared (s : State) : s.fatal.shared = { s.shared with pending := 0#32 } := rfl
@[simp] theorem State.fatal_out (s : State) : s.fatal.out = s.out := rfl
@[simp] theorem State.fatal_faults (s : State) : s.fatal.faults = s.faults := rfl
@[simp] theorem State.fatal_env (s : State) : s.fatal.env = s.env := rfl

@[simp] theorem State.emit_cfg (s : State) (b : Batch) : (s.emit b).cfg = s.cfg := rfl
@[simp] theorem State.emit_ctx (s : State) (b : Batch) : (s.emit b).ctx = s.ctx := rfl
@[simp] theorem State.emit_shared (s : State) (b : Batch) : (s.emit b).shared = s.shared := rfl
@[simp] theorem State.emit_out (s : State) (b : Batch) :
    (s.emit b).out =
      { s.out with batches := s.out.batches ++ [b] } := rfl
@[simp] theorem State.emit_faults (s : State) (b : Batch) : (s.emit b).faults = s.faults := rfl
@[simp] theorem State.emit_env (s : State) (b : Batch) : (s.emit b).env = s.env := rfl

@[simp] theorem State.record_cfg (s : State) (r : OpOutcome) : (s.record r).cfg = s.cfg := rfl
@[simp] theorem State.record_ctx (s : State) (r : OpOutcome) : (s.record r).ctx = s.ctx := rfl
@[simp] theorem State.record_shared (s : State) (r : OpOutcome) : (s.record r).shared = s.shared := rfl
@[simp] theorem State.record_out (s : State) (r : OpOutcome) :
    (s.record r).out =
      { s.out with lastOutcome := some r } := rfl
@[simp] theorem State.record_faults (s : State) (r : OpOutcome) : (s.record r).faults = s.faults := rfl
@[simp] theorem State.record_env (s : State) (r : OpOutcome) : (s.record r).env = s.env := rfl

@[simp] theorem State.advanceCursor_cfg (s : State) : s.advanceCursor.cfg = s.cfg := rfl
@[simp] theorem State.advanceCursor_ctx (s : State) :
    s.advanceCursor.ctx =
      { s.ctx with cursor := (s.ctx.cursor + 1) % s.cfg.table.length } := rfl
@[simp] theorem State.advanceCursor_shared (s : State) : s.advanceCursor.shared = s.shared := rfl
@[simp] theorem State.advanceCursor_out (s : State) : s.advanceCursor.out = s.out := rfl
@[simp] theorem State.advanceCursor_faults (s : State) : s.advanceCursor.faults = s.faults := rfl
@[simp] theorem State.advanceCursor_env (s : State) : s.advanceCursor.env = s.env := rfl

@[simp] theorem State.flushed_cfg (s : State) : s.flushed.cfg = s.cfg := rfl
@[simp] theorem State.flushed_ctx (s : State) :
    s.flushed.ctx =
      { s.ctx with badframeStreak := 0, cntFifoReset := satInc s.ctx.cntFifoReset } := rfl
@[simp] theorem State.flushed_shared (s : State) : s.flushed.shared = { s.shared with pending := 0#32 } := rfl
@[simp] theorem State.flushed_out (s : State) : s.flushed.out = s.out := rfl
@[simp] theorem State.flushed_faults (s : State) : s.flushed.faults = s.faults := rfl
@[simp] theorem State.flushed_env (s : State) : s.flushed.env = s.env := rfl

@[simp] theorem State.setTemperature_cfg (s : State) (now : Time) (raw : Half) :
    (s.setTemperature now raw).cfg =
      s.cfg := rfl
@[simp] theorem State.setTemperature_ctx (s : State) (now : Time) (raw : Half) :
    (s.setTemperature now raw).ctx =
      { s.ctx with tempRaw := some raw, temperature := some (Config.tempConvert raw), tTemp := some now } := rfl
@[simp] theorem State.setTemperature_shared (s : State) (now : Time) (raw : Half) :
    (s.setTemperature now raw).shared =
      s.shared := rfl
@[simp] theorem State.setTemperature_out (s : State) (now : Time) (raw : Half) :
    (s.setTemperature now raw).out =
      s.out := rfl
@[simp] theorem State.setTemperature_faults (s : State) (now : Time) (raw : Half) :
    (s.setTemperature now raw).faults =
      s.faults := rfl
@[simp] theorem State.setTemperature_env (s : State) (now : Time) (raw : Half) :
    (s.setTemperature now raw).env =
      s.env := rfl

@[simp] theorem State.enterFifoRead_cfg (s : State) (now : Time) : (s.enterFifoRead now).cfg = s.cfg := rfl
@[simp] theorem State.enterFifoRead_ctx (s : State) (now : Time) :
    (s.enterFifoRead now).ctx =
      { s.ctx with
        state := .fifoRead, configFailStreak := 0, drdyEnabled := s.cfg.drdyAvailable
        tDrdy := some now, busErrorStreak := 0, badframeStreak := 0 } := rfl
@[simp] theorem State.enterFifoRead_shared (s : State) (now : Time) : (s.enterFifoRead now).shared = s.shared := rfl
@[simp] theorem State.enterFifoRead_out (s : State) (now : Time) : (s.enterFifoRead now).out = s.out := rfl
@[simp] theorem State.enterFifoRead_faults (s : State) (now : Time) : (s.enterFifoRead now).faults = s.faults := rfl
@[simp] theorem State.enterFifoRead_env (s : State) (now : Time) : (s.enterFifoRead now).env = s.env := rfl

@[simp] theorem State.reconfigure_cfg (s : State) : s.reconfigure.cfg = s.cfg := rfl
@[simp] theorem State.reconfigure_ctx (s : State) :
    s.reconfigure.ctx =
      { s.ctx with state := .configure, cursor := if s.cfg.cursorResetOnConfigure then 0 else s.ctx.cursor } := rfl
@[simp] theorem State.reconfigure_shared (s : State) : s.reconfigure.shared = s.shared := rfl
@[simp] theorem State.reconfigure_out (s : State) : s.reconfigure.out = s.out := rfl
@[simp] theorem State.reconfigure_faults (s : State) : s.reconfigure.faults = s.faults := rfl
@[simp] theorem State.reconfigure_env (s : State) : s.reconfigure.env = s.env := rfl

@[simp] theorem State.badBatch_cfg (s : State) : s.badBatch.cfg = s.cfg := rfl
@[simp] theorem State.badBatch_ctx (s : State) :
    s.badBatch.ctx =
      { s.ctx with badframeStreak := s.ctx.badframeStreak + 1 } := rfl
@[simp] theorem State.badBatch_shared (s : State) : s.badBatch.shared = s.shared := rfl
@[simp] theorem State.badBatch_out (s : State) : s.badBatch.out = s.out := rfl
@[simp] theorem State.badBatch_faults (s : State) : s.badBatch.faults = s.faults := rfl
@[simp] theorem State.badBatch_env (s : State) : s.badBatch.env = s.env := rfl

@[simp] theorem State.markStall_cfg (s : State) (now : Time) (drdySeen : Bool) :
    (s.markStall now drdySeen).cfg =
      s.cfg := rfl
@[simp] theorem State.markStall_ctx (s : State) (now : Time) (drdySeen : Bool) :
    (s.markStall now drdySeen).ctx =
      { s.ctx with tDrdy := if stalled now drdySeen s then some now else s.ctx.tDrdy } := rfl
@[simp] theorem State.markStall_shared (s : State) (now : Time) (drdySeen : Bool) :
    (s.markStall now drdySeen).shared =
      s.shared := rfl
@[simp] theorem State.markStall_out (s : State) (now : Time) (drdySeen : Bool) :
    (s.markStall now drdySeen).out =
      s.out := rfl
@[simp] theorem State.markStall_faults (s : State) (now : Time) (drdySeen : Bool) :
    (s.markStall now drdySeen).faults =
      s.faults := rfl
@[simp] theorem State.markStall_env (s : State) (now : Time) (drdySeen : Bool) :
    (s.markStall now drdySeen).env =
      s.env := rfl

@[simp] theorem State.consumePending_cfg (s : State) (now : Time) : (s.consumePending now).cfg = s.cfg := rfl
@[simp] theorem State.consumePending_ctx (s : State) (now : Time) :
    (s.consumePending now).ctx =
      if drdyPending s then s.ctx.noteDrdy now else s.ctx := rfl
@[simp] theorem State.consumePending_shared (s : State) (now : Time) :
    (s.consumePending now).shared =
      { s.shared with pending := 0#32 } := rfl
@[simp] theorem State.consumePending_out (s : State) (now : Time) : (s.consumePending now).out = s.out := rfl
@[simp] theorem State.consumePending_faults (s : State) (now : Time) : (s.consumePending now).faults = s.faults := rfl
@[simp] theorem State.consumePending_env (s : State) (now : Time) : (s.consumePending now).env = s.env := rfl

@[simp] theorem State.clearCounters_cfg (s : State) : s.clearCounters.cfg = s.cfg := rfl
@[simp] theorem State.clearCounters_ctx (s : State) :
    s.clearCounters.ctx =
      { s.ctx with
        cntBadRegister := 0#64, cntBadTransfer := 0#64, cntFifoEmpty := 0#64
        cntFifoOverflow := 0#64, cntFifoReset := 0#64 } := rfl
@[simp] theorem State.clearCounters_shared (s : State) : s.clearCounters.shared = s.shared := rfl
@[simp] theorem State.clearCounters_out (s : State) : s.clearCounters.out = s.out := rfl
@[simp] theorem State.clearCounters_faults (s : State) : s.clearCounters.faults = s.faults := rfl
@[simp] theorem State.clearCounters_env (s : State) : s.clearCounters.env = s.env := rfl

@[simp] theorem State.restarted_cfg (s : State) : s.restarted.cfg = s.cfg := rfl
@[simp] theorem State.restarted_ctx (s : State) :
    s.restarted.ctx =
      { s.ctx with initFailed := false, timerEnabled := true } := rfl
@[simp] theorem State.restarted_shared (s : State) : s.restarted.shared = { s.shared with tickRequested := true } := rfl
@[simp] theorem State.restarted_out (s : State) : s.restarted.out = s.out := rfl
@[simp] theorem State.restarted_faults (s : State) : s.restarted.faults = s.faults := rfl
@[simp] theorem State.restarted_env (s : State) : s.restarted.env = s.env := rfl

/-! ## Raising a model fault -/

@[simp] theorem State.raise_cfg (s : State) (k : FaultKind) : (s.raise k).cfg = s.cfg := by
  unfold State.raise; split <;> rfl

@[simp] theorem State.raise_ctx (s : State) (k : FaultKind) : (s.raise k).ctx = s.ctx := by
  unfold State.raise; split <;> rfl

@[simp] theorem State.raise_shared (s : State) (k : FaultKind) : (s.raise k).shared = s.shared := by
  unfold State.raise; split <;> rfl

@[simp] theorem State.raise_out (s : State) (k : FaultKind) : (s.raise k).out = s.out := by
  unfold State.raise; split <;> rfl

@[simp] theorem State.raise_env (s : State) (k : FaultKind) : (s.raise k).env = s.env := by
  unfold State.raise; split <;> rfl

/-- A raised fault is in the fault set, and the kinds already there stay (R53). -/
theorem State.mem_raise_faults (s : State) (k j : FaultKind) : j ∈ (s.raise k).faults ↔ j = k ∨ j ∈ s.faults := by
  unfold State.raise
  split
  · rename_i h
    exact ⟨Or.inr, fun h' => h'.elim (fun e => e ▸ h) id⟩
  · simp [or_comm]

/-! ## The data-ready note of a tick (R142) -/

@[simp] theorem Ctx.noteDrdy_tDrdy (c : Ctx) (now : Time) : (c.noteDrdy now).tDrdy = some now := rfl

/-- Every other field of the context but the last interval is unchanged. -/
theorem Ctx.noteDrdy_eq (c : Ctx) (now : Time) :
    c.noteDrdy now = { c with tDrdy := some now, drdyIntervalLast := (c.noteDrdy now).drdyIntervalLast } := rfl

@[simp] theorem State.noteCfgCheck_cfg (s : State) (now : Time) : (s.noteCfgCheck now).cfg = s.cfg := rfl
@[simp] theorem State.noteCfgCheck_shared (s : State) (now : Time) : (s.noteCfgCheck now).shared = s.shared := rfl
@[simp] theorem State.noteCfgCheck_out (s : State) (now : Time) : (s.noteCfgCheck now).out = s.out := rfl
@[simp] theorem State.noteCfgCheck_faults (s : State) (now : Time) : (s.noteCfgCheck now).faults = s.faults := rfl
@[simp] theorem State.noteCfgCheck_env (s : State) (now : Time) : (s.noteCfgCheck now).env = s.env := rfl
@[simp] theorem State.noteCfgCheck_ctx (s : State) (now : Time) :
    (s.noteCfgCheck now).ctx = { s.ctx with tCfgCheck := some now } := rfl

/-! ## The counts of a scan and of a classification (R41) -/

@[simp] theorem State.countScan_cfg (s : State) (bad : Option Nat) : (s.countScan bad).cfg = s.cfg := by cases bad <;> rfl
@[simp] theorem State.countScan_shared (s : State) (bad : Option Nat) : (s.countScan bad).shared = s.shared := by cases bad <;> rfl
@[simp] theorem State.countScan_out (s : State) (bad : Option Nat) : (s.countScan bad).out = s.out := by cases bad <;> rfl
@[simp] theorem State.countScan_faults (s : State) (bad : Option Nat) : (s.countScan bad).faults = s.faults := by cases bad <;> rfl
@[simp] theorem State.countScan_env (s : State) (bad : Option Nat) : (s.countScan bad).env = s.env := by cases bad <;> rfl

@[simp] theorem State.countOutcome_cfg (s : State) (r : CountOutcome) : (s.countOutcome r).cfg = s.cfg := by cases r <;> rfl
@[simp] theorem State.countOutcome_shared (s : State) (r : CountOutcome) : (s.countOutcome r).shared = s.shared := by cases r <;> rfl
@[simp] theorem State.countOutcome_out (s : State) (r : CountOutcome) : (s.countOutcome r).out = s.out := by cases r <;> rfl
@[simp] theorem State.countOutcome_faults (s : State) (r : CountOutcome) : (s.countOutcome r).faults = s.faults := by cases r <;> rfl
@[simp] theorem State.countOutcome_env (s : State) (r : CountOutcome) : (s.countOutcome r).env = s.env := by cases r <;> rfl

/-- A bad frame is counted once (R128). -/
theorem State.countScan_ctx (s : State) (bad : Option Nat) :
    (s.countScan bad).ctx =
      { s.ctx with cntBadTransfer := if bad = none then s.ctx.cntBadTransfer else satInc s.ctx.cntBadTransfer } := by
  cases bad <;> rfl

end Sys2Proof.Machine
end

