-- ==== Sys2Proof/Laws/Bus.lean ====
section
/-!
SUPPORT. What a callback step, one transaction, a clock draw and an operation issued on its own can do, each said once. Provers
cite these instead of unfolding the operations.
-/

namespace Sys2Proof.Machine

/-! ## Callback steps write the shared cells alone (R22, R78) -/

@[simp] theorem State.drdySignal_cfg (s : State) : s.drdySignal.cfg = s.cfg := by unfold State.drdySignal; split <;> rfl
@[simp] theorem State.drdySignal_ctx (s : State) : s.drdySignal.ctx = s.ctx := by unfold State.drdySignal; split <;> rfl
@[simp] theorem State.drdySignal_out (s : State) : s.drdySignal.out = s.out := by unfold State.drdySignal; split <;> rfl
@[simp] theorem State.drdySignal_faults (s : State) : s.drdySignal.faults = s.faults := by
  unfold State.drdySignal; split <;> rfl
@[simp] theorem State.drdySignal_env (s : State) : s.drdySignal.env = s.env := by unfold State.drdySignal; split <;> rfl

@[simp] theorem State.timerExpire_cfg (s : State) : s.timerExpire.cfg = s.cfg := by unfold State.timerExpire; split <;> rfl
@[simp] theorem State.timerExpire_ctx (s : State) : s.timerExpire.ctx = s.ctx := by unfold State.timerExpire; split <;> rfl
@[simp] theorem State.timerExpire_out (s : State) : s.timerExpire.out = s.out := by unfold State.timerExpire; split <;> rfl
@[simp] theorem State.timerExpire_faults (s : State) : s.timerExpire.faults = s.faults := by
  unfold State.timerExpire; split <;> rfl
@[simp] theorem State.timerExpire_env (s : State) : s.timerExpire.env = s.env := by unfold State.timerExpire; split <;> rfl

@[simp] theorem State.callback_cfg (s : State) (e : Callback) : (s.callback e).cfg = s.cfg := by
  cases e <;> simp [State.callback]
@[simp] theorem State.callback_ctx (s : State) (e : Callback) : (s.callback e).ctx = s.ctx := by
  cases e <;> simp [State.callback]
@[simp] theorem State.callback_out (s : State) (e : Callback) : (s.callback e).out = s.out := by
  cases e <;> simp [State.callback]
@[simp] theorem State.callback_faults (s : State) (e : Callback) : (s.callback e).faults = s.faults := by
  cases e <;> simp [State.callback]
@[simp] theorem State.callback_env (s : State) (e : Callback) : (s.callback e).env = s.env := by
  cases e <;> simp [State.callback]

/-- A tick request, once made, is not withdrawn by a callback step (R46). -/
theorem State.callback_request (s : State) (e : Callback) (h : s.shared.tickRequested = true) :
    (s.callback e).shared.tickRequested = true := by
  cases e
  · simp only [State.callback, State.drdySignal]; split <;> simp_all
  · simp only [State.callback, State.timerExpire]; split <;> simp_all

@[simp] theorem State.deliver_nil (s : State) : s.deliver [] = s := rfl

@[simp] theorem State.deliver_cons (s : State) (e : Callback) (es : List Callback) :
    s.deliver (e :: es) = (s.callback e).deliver es := rfl

@[simp] theorem State.deliver_cfg (s : State) (es : List Callback) : (s.deliver es).cfg = s.cfg := by
  induction es generalizing s <;> simp_all
@[simp] theorem State.deliver_ctx (s : State) (es : List Callback) : (s.deliver es).ctx = s.ctx := by
  induction es generalizing s <;> simp_all
@[simp] theorem State.deliver_out (s : State) (es : List Callback) : (s.deliver es).out = s.out := by
  induction es generalizing s <;> simp_all
@[simp] theorem State.deliver_faults (s : State) (es : List Callback) : (s.deliver es).faults = s.faults := by
  induction es generalizing s <;> simp_all
@[simp] theorem State.deliver_env (s : State) (es : List Callback) : (s.deliver es).env = s.env := by
  induction es generalizing s <;> simp_all

theorem State.deliver_request (s : State) (es : List Callback) (h : s.shared.tickRequested = true) :
    (s.deliver es).shared.tickRequested = true := by
  induction es generalizing s with
  | nil => simpa using h
  | cons e es ih => exact ih _ (s.callback_request e h)

/-! ## One transaction -/

@[simp] theorem State.transact_cfg (s : State) (r : BusRequest) : (s.transact r).cfg = s.cfg := by simp [State.transact]
@[simp] theorem State.transact_ctx (s : State) (r : BusRequest) : (s.transact r).ctx = s.ctx := by simp [State.transact]
@[simp] theorem State.transact_faults (s : State) (r : BusRequest) : (s.transact r).faults = s.faults := by
  simp [State.transact]
@[simp] theorem State.transact_env (s : State) (r : BusRequest) : (s.transact r).env = s.env.answered := by
  simp [State.transact]

/-- Exactly one event is appended to the bus history (R57, R111), and no other output changes. -/
@[simp] theorem State.transact_out (s : State) (r : BusRequest) :
    (s.transact r).out = { s.out with busLog := s.out.busLog ++ [busEvent r (s.answer r) s.ctx.state] } := by
  simp [State.transact]

theorem State.transact_request (s : State) (r : BusRequest) (h : s.shared.tickRequested = true) :
    (s.transact r).shared.tickRequested = true := State.deliver_request _ _ h

/-- With no callback step falling into the transaction, the shared cells are unchanged. -/
theorem State.transact_shared (s : State) (r : BusRequest) (h : (s.answer r).during = []) :
    (s.transact r).shared = s.shared := by
  simp [State.transact, h]

@[simp] theorem Env.answered_program (e : Env) : e.answered.program = e.program := by unfold Env.answered; split <;> rfl
@[simp] theorem Env.answered_time (e : Env) : e.answered.time = e.time := by unfold Env.answered; split <;> rfl
@[simp] theorem Env.answered_opDraws (e : Env) : e.answered.opDraws = e.opDraws := by unfold Env.answered; split <;> rfl
@[simp] theorem Env.answered_timeDraws (e : Env) : e.answered.timeDraws = e.timeDraws := by
  unfold Env.answered; split <;> rfl
@[simp] theorem Env.clocked_program (e : Env) : e.clocked.program = e.program := by unfold Env.clocked; split <;> rfl
@[simp] theorem Env.clocked_answers (e : Env) : e.clocked.answers = e.answers := by unfold Env.clocked; split <;> rfl

@[simp] theorem busEvent_state (r : BusRequest) (a : BusAnswer) (st : AcqState) : (busEvent r a st).state = st := by
  cases r <;> rfl

@[simp] theorem busEvent_read (addr : Byte) (a : BusAnswer) (st : AcqState) :
    busEvent (.read addr) a st =
      { op := .readRegister, a := addr, b := 0#16, result := a.result (.read addr), state := st } := rfl

@[simp] theorem busEvent_write (addr value : Byte) (a : BusAnswer) (st : AcqState) :
    busEvent (.write addr value) a st =
      { op := .writeRegister, a := addr, b := value.setWidth 16, result := a.result (.write addr value), state := st } := rfl

@[simp] theorem busEvent_bulk (cmd : Byte) (n : Nat) (a : BusAnswer) (st : AcqState) :
    busEvent (.bulk cmd n) a st =
      { op := .bulkTransfer, a := cmd, b := BitVec.ofNat 16 n, result := a.result (.bulk cmd n), state := st } := rfl

/-- With an annotated answer next, that is the answer (R107). -/
theorem State.answer_cons (s : State) (r : BusRequest) (a : BusAnswer) (as : List BusAnswer)
    (h : s.env.answers = a :: as) : s.answer r = a := by
  simp [State.answer, h]

/-- A free answer to a bulk transfer has as many bytes as were asked for (R68, R110). -/
theorem freeAnswer_block_length (draw : Nat) (r : BusRequest) : (freeAnswer draw r).block.length = rxLength r := by
  simp [freeAnswer]

/-- A clock draw changes no answer of the transport. -/
@[simp] theorem State.timed_answer (s : State) (r : BusRequest) : s.timed.answer r = s.answer r := by
  unfold State.answer
  simp only [State.timed_env, Env.clocked_answers]
  cases s.env.answers with
  | cons a as => rfl
  | nil =>
    simp only [Env.clocked]
    split <;> rfl

/-- A change of the context that keeps the two masks changes nothing of what a callback step does to the shared cells. -/
theorem State.callback_shared_congr {s t : State} (e : Callback) (h : s.shared = t.shared) (hc : s.cfg = t.cfg)
    (hd : s.ctx.drdyEnabled = t.ctx.drdyEnabled) (ht : s.ctx.timerEnabled = t.ctx.timerEnabled) :
    (s.callback e).shared = (t.callback e).shared := by
  cases e
  · simp only [State.callback, State.drdySignal, hd, hc, h]; split <;> simp [h]
  · simp only [State.callback, State.timerExpire, ht]; split <;> simp [h]

theorem State.deliver_shared_congr {s t : State} (es : List Callback) (h : s.shared = t.shared) (hc : s.cfg = t.cfg)
    (hd : s.ctx.drdyEnabled = t.ctx.drdyEnabled) (ht : s.ctx.timerEnabled = t.ctx.timerEnabled) :
    (s.deliver es).shared = (t.deliver es).shared := by
  induction es generalizing s t with
  | nil => exact h
  | cons e es ih =>
    exact ih (State.callback_shared_congr e h hc hd ht) (by simpa using hc) (by simpa using hd) (by simpa using ht)

/-- A transaction changes the shared cells only by the callback steps that fall into it. -/
theorem State.transact_shared_eq (s : State) (r : BusRequest) :
    (s.transact r).shared = (s.deliver (s.answer r).during).shared :=
  State.deliver_shared_congr _ rfl rfl rfl rfl

/-- A clock draw changes nothing of what callback steps do to the shared cells. -/
@[simp] theorem State.timed_deliver_shared (s : State) (es : List Callback) :
    (s.timed.deliver es).shared = (s.deliver es).shared :=
  State.deliver_shared_congr es rfl rfl rfl rfl

/-! ## What a run of transactions can do -/

/-- `t` is reached from `s` by the task: the context is `c`, every new bus event satisfies `P`, every new batch is one the
consumer may see, and the parameters, the fault set, the diagnostics, the recorded outcome, the program and the clock
annotations are unchanged. -/
structure Did (P : BusEvent → Prop) (s : State) (c : Ctx) (t : State) : Prop where
  cfg : t.cfg = s.cfg
  ctx : t.ctx = c
  faults : t.faults = s.faults
  batches : ∃ bs, t.out.batches = s.out.batches ++ bs ∧ ∀ b ∈ bs, BatchOk s.cfg b
  diagnostics : t.out.diagnostics = s.out.diagnostics
  lastOutcome : t.out.lastOutcome = s.out.lastOutcome
  log : ∃ evs, t.out.busLog = s.out.busLog ++ evs ∧ ∀ e ∈ evs, P e
  program : t.env.program = s.env.program
  time : t.env.time = s.env.time
  opDraws : t.env.opDraws = s.env.opDraws
  timeDraws : t.env.timeDraws = s.env.timeDraws

theorem Did.refl (P : BusEvent → Prop) (s : State) : Did P s s.ctx s :=
  ⟨rfl, rfl, rfl, ⟨[], by simp⟩, rfl, rfl, ⟨[], by simp⟩, rfl, rfl, rfl, rfl⟩

theorem Did.trans {P : BusEvent → Prop} {s t u : State} {c d : Ctx} (h : Did P s c t) (k : Did P t d u) : Did P s d u := by
  obtain ⟨e1, h1, p1⟩ := h.log
  obtain ⟨e2, h2, p2⟩ := k.log
  obtain ⟨b1, g1, q1⟩ := h.batches
  obtain ⟨b2, g2, q2⟩ := k.batches
  refine ⟨k.cfg.trans h.cfg, k.ctx, k.faults.trans h.faults, ⟨b1 ++ b2, by rw [g2, g1, List.append_assoc], ?_⟩,
    k.diagnostics.trans h.diagnostics, k.lastOutcome.trans h.lastOutcome,
    ⟨e1 ++ e2, by rw [h2, h1, List.append_assoc], ?_⟩, k.program.trans h.program, k.time.trans h.time,
    k.opDraws.trans h.opDraws, k.timeDraws.trans h.timeDraws⟩
  · intro b hb
    rcases List.mem_append.mp hb with h' | h'
    · exact q1 b h'
    · exact h.cfg ▸ q2 b h'
  · intro e he
    rcases List.mem_append.mp he with h' | h'
    · exact p1 e h'
    · exact p2 e h'

/-- The batches are only appended to (R50). -/
theorem Did.batches_prefix {P : BusEvent → Prop} {s t : State} {c : Ctx} (h : Did P s c t) :
    s.out.batches <+: t.out.batches := by
  obtain ⟨bs, hb, _⟩ := h.batches
  exact ⟨bs, hb.symm⟩

/-- An update of the context and the shared cells extends a run. -/
theorem Did.update {P : BusEvent → Prop} {s t u : State} {c d : Ctx} (h : Did P s c t) (hd : u.ctx = d)
    (h1 : u.cfg = t.cfg := by rfl) (h2 : u.out = t.out := by rfl) (h3 : u.faults = t.faults := by rfl)
    (h4 : u.env = t.env := by rfl) : Did P s d u :=
  ⟨h1.trans h.cfg, hd, h3.trans h.faults, h2 ▸ h.batches, h2 ▸ h.diagnostics, h2 ▸ h.lastOutcome, h2 ▸ h.log,
    h4 ▸ h.program, h4 ▸ h.time, h4 ▸ h.opDraws, h4 ▸ h.timeDraws⟩

/-- One transaction is a run that keeps the context. -/
theorem transact_did (P : BusEvent → Prop) (s : State) (r : BusRequest) (hP : P (busEvent r (s.answer r) s.ctx.state)) :
    Did P s s.ctx (s.transact r) :=
  ⟨by simp, by simp, by simp, ⟨[], by simp⟩, by simp, by simp, ⟨_, by simp; rfl, by simpa using hP⟩, by simp, by simp,
    by simp, by simp⟩

theorem readRegister_did (P : BusEvent → Prop) (addr : Byte) (s : State)
    (hP : ∀ a, P (busEvent (.read addr) a s.ctx.state)) : Did P s s.ctx (readRegister addr s).2 :=
  transact_did P s _ (hP _)

theorem writeRegister_did (P : BusEvent → Prop) (addr value : Byte) (s : State)
    (hP : ∀ a, P (busEvent (.write addr value) a s.ctx.state)) : Did P s s.ctx (writeRegister addr value s).2 :=
  transact_did P s _ (hP _)

/-- A bulk transfer runs one transaction unless it is longer than the scratch buffer (R115). -/
theorem bulkTransfer_did {P : BusEvent → Prop} {cmd : Byte} {n : Nat} {s t : State} {bytes : Option (List Byte)}
    (h : bulkTransfer cmd n s = .ok (bytes, t)) (hP : ∀ a, P (busEvent (.bulk cmd n) a s.ctx.state)) :
    Did P s s.ctx t ∧ bytes = (s.answer (.bulk cmd n)).bulkBytes ∧ n ≤ s.cfg.scratchSize := by
  unfold bulkTransfer at h
  split at h
  · cases h
  · cases h
    exact ⟨transact_did P s _ (hP _), rfl, by omega⟩

/-! ## The clock draw -/

/-- A clock that runs gives the time, and the state with it as `t_last_tick` (R140). -/
theorem drawNow_ok {s : State} (h : clockRuns s = true) : drawNow s = .ok (s.clockValue, s.timed) := by
  unfold drawNow
  unfold clockRuns at h
  split
  · rfl
  · rename_i prev hp
    simp only [hp, decide_eq_true_eq] at h
    rw [if_neg (BitVec.not_lt.mpr h)]

/-- A clock that has run back is the fault ClockRegression (R140, R178). -/
theorem drawNow_error {s : State} {prev : Time} (hp : s.ctx.tLastTick = some prev) (h : s.clockValue < prev) :
    drawNow s = .error (.clockRegression prev s.clockValue (s.clocked.raise .clockRegression)) := by
  simp [drawNow, hp, h]

/-- The only way a clock draw succeeds. -/
theorem drawNow_inv {s t : State} {now : Time} (h : drawNow s = .ok (now, t)) :
    clockRuns s = true ∧ now = s.clockValue ∧ t = s.timed := by
  cases hc : clockRuns s with
  | true =>
    rw [drawNow_ok hc] at h
    cases h
    exact ⟨rfl, rfl, rfl⟩
  | false =>
    unfold clockRuns at hc
    split at hc
    · cases hc
    · rename_i prev hp
      rw [drawNow_error hp (BitVec.not_le.mp (by simpa using hc))] at h
      cases h

/-! ## An operation issued on its own (R86) -/

/-- In HARNESS_MODE with a running clock, the operation runs at the drawn time and its outcome is recorded. -/
theorem issueAlone_next {op : Time → State → Except Fault (OpOutcome × State)} {s t : State} {r : OpOutcome}
    (hm : s.cfg.harnessMode = true) (hc : clockRuns s = true) (h : op s.clockValue s.timed = .ok (r, t)) :
    issueAlone op s = .next (t.record r) := by
  simp [issueAlone, hm, drawNow_ok hc, h]

/-- The only way an operation issued on its own answers a next state. -/
theorem issueAlone_inv {op : Time → State → Except Fault (OpOutcome × State)} {s t : State}
    (h : issueAlone op s = .next t) :
    s.cfg.harnessMode = true ∧ clockRuns s = true ∧ ∃ r u, op s.clockValue s.timed = .ok (r, u) ∧ t = u.record r := by
  unfold issueAlone at h
  split at h
  · rename_i hm
    split at h
    · cases h
    · rename_i now s1 hd
      obtain ⟨hc, rfl, rfl⟩ := drawNow_inv hd
      split at h
      · cases h
      · rename_i r u hu
        cases h
        exact ⟨hm, hc, r, u, hu, rfl⟩
  · cases h

/-- Outside HARNESS_MODE it is refused (R86, R179). -/
theorem issueAlone_refused (op : Time → State → Except Fault (OpOutcome × State)) {s : State}
    (hm : s.cfg.harnessMode = false) : issueAlone op s = .refused .internalOperation := by
  simp [issueAlone, hm]

end Sys2Proof.Machine
end

