-- ==== Sys2Proof/Laws/Decode.lean ====
section
/-!
SUPPORT. The fields of an operation word: what they read of an encoded operation, and that the word is its fields.
-/

namespace Sys2Proof

/-- The opcode field of a word put together from its fields (R82). -/
theorem opcodeField_append (op a : Byte) (b : Half) : opcodeField (op ++ a ++ b) = op := by
  apply BitVec.eq_of_getLsbD_eq
  intro i hi
  have h1 : ¬ 24 + i < 16 := by omega
  have h2 : ¬ 24 + i - 16 < 8 := by omega
  simp only [opcodeField, BitVec.getLsbD_extractLsb', BitVec.getLsbD_append, h1, h2, hi, decide_true, Bool.true_and,
    if_false]
  rw [show 24 + i - 16 - 8 = i by omega]

/-- The `A` field of a word put together from its fields (R82). -/
theorem aField_append (op a : Byte) (b : Half) : aField (op ++ a ++ b) = a := by
  apply BitVec.eq_of_getLsbD_eq
  intro i hi
  have h1 : ¬ 16 + i < 16 := by omega
  simp only [aField, BitVec.getLsbD_extractLsb', BitVec.getLsbD_append, h1, hi, decide_true, Bool.true_and, if_false]
  rw [show 16 + i - 16 = i by omega, if_pos hi]

/-- The `B` field of a word put together from its fields (R82). -/
theorem bField_append (op a : Byte) (b : Half) : bField (op ++ a ++ b) = b := by
  apply BitVec.eq_of_getLsbD_eq
  intro i hi
  simp only [bField, BitVec.getLsbD_extractLsb', BitVec.getLsbD_append, hi, decide_true, Bool.true_and, if_true,
    Nat.zero_add]

/-- A word is its three fields (R82). -/
theorem append_fields (w : Word) : opcodeField w ++ aField w ++ bField w = w := by
  apply BitVec.eq_of_getLsbD_eq
  intro i hi
  simp only [opcodeField, aField, bField, BitVec.getLsbD_append, BitVec.getLsbD_extractLsb']
  by_cases h1 : i < 16
  · simp [h1]
  · by_cases h2 : i - 16 < 8
    · simp [h1, h2, show 16 + (i - 16) = i by omega]
    · simp [h1, h2, show 24 + (i - 16 - 8) = i by omega, show i - 16 - 8 < 8 by omega]

/-- A zero-extended byte as the `B` field: its low byte is the byte (R83). -/
@[simp] theorem bLow_setWidth (v : Byte) : bLow (v.setWidth 16) = v := by
  apply BitVec.eq_of_getLsbD_eq
  intro i hi
  simp [bLow, hi, show i < 16 by omega]

/-- A zero-extended byte as the `B` field: its high byte is 0 (R83). -/
@[simp] theorem bHigh_setWidth (v : Byte) : bHigh (v.setWidth 16) = 0#8 := by
  apply BitVec.eq_of_getLsbD_eq
  intro i hi
  simp [bHigh]

/-- A `B` field whose high byte is 0 is its low byte, zero-extended (R83). -/
theorem setWidth_bLow {b : Half} (h : bHigh b = 0#8) : (bLow b).setWidth 16 = b := by
  apply BitVec.eq_of_getLsbD_eq
  intro i hi
  by_cases h1 : i < 8
  · simp [bLow, h1, hi]
  · have h2 := congrArg (fun x : Byte => x.getLsbD (i - 8)) h
    simp only [bHigh, BitVec.getLsbD_extractLsb', show i - 8 < 8 by omega, show 8 + (i - 8) = i by omega] at h2
    simp only [BitVec.getLsbD_setWidth, hi, decide_true, Bool.true_and, bLow, BitVec.getLsbD_extractLsb', h1, decide_false,
      Bool.false_and]
    simpa using h2.symm

/-- The fields of an encoded operation are its own (R82 to R84). -/
@[simp] theorem opcodeField_encode (i : Instr) : opcodeField (encode i) = opcodeOf i := opcodeField_append _ _ _
@[simp] theorem aField_encode (i : Instr) : aField (encode i) = aOf i := aField_append _ _ _
@[simp] theorem bField_encode (i : Instr) : bField (encode i) = bOf i := bField_append _ _ _

end Sys2Proof
end

