-- ==== Sys2Proof/Laws/Errors.lean ====
section
/-!
SUPPORT. Where a bus error can stand in a run of transactions: no operation issues a transaction after one that failed, and each
reports whether its last one did (R118, R126, R128, R136, R151, R157).
-/

namespace Sys2Proof.Machine

/-- `t` is reached from `s` by transactions of which none failed, or, where `failed` says so, the last one and no other did. -/
def BusRun (s t : State) (failed : Bool) : Prop :=
  ∃ new, t.out.busLog = s.out.busLog ++ new ∧ (failed = false → ∀ e ∈ new, e.result ≠ .busError) ∧
    (failed = true → (∀ e ∈ new.dropLast, e.result ≠ .busError) ∧ ∃ e, new.getLast? = some e ∧ e.result = .busError)

theorem BusRun.refl (s : State) : BusRun s s false := ⟨[], by simp, by simp, by simp⟩

theorem BusRun.trans {s t u : State} {b : Bool} (h : BusRun s t false) (k : BusRun t u b) : BusRun s u b := by
  obtain ⟨n1, l1, a1, -⟩ := h
  obtain ⟨n2, l2, a2, b2⟩ := k
  refine ⟨n1 ++ n2, by rw [l2, l1, List.append_assoc], fun hb e he => ?_, fun hb => ?_⟩
  · rcases List.mem_append.mp he with h | h
    · exact a1 rfl e h
    · exact a2 hb e h
  · obtain ⟨q1, e, q2, q3⟩ := b2 hb
    have hne : n2 ≠ [] := by
      rintro rfl
      simp at q2
    refine ⟨?_, e, by rw [List.getLast?_append, q2]; rfl, q3⟩
    rw [List.dropLast_append_of_ne_nil hne]
    intro x hx
    rcases List.mem_append.mp hx with h | h
    · exact a1 rfl x h
    · exact q1 x h

/-- An update that writes no event extends a run. -/
theorem BusRun.update {s t u : State} {b : Bool} (h : BusRun s t b) (hu : u.out.busLog = t.out.busLog := by rfl) :
    BusRun s u b := by
  obtain ⟨n, l, a⟩ := h
  exact ⟨n, hu.trans l, a⟩

/-- What a run says of the new events, whichever way it ended. -/
theorem BusRun.events {s t : State} {b : Bool} (h : BusRun s t b) :
    ∃ new, t.out.busLog = s.out.busLog ++ new ∧ (∀ e ∈ new.dropLast, e.result ≠ .busError) ∧
      (b = true ↔ ∃ e, new.getLast? = some e ∧ e.result = .busError) := by
  obtain ⟨n, l, h1, h2⟩ := h
  cases b with
  | true => exact ⟨n, l, (h2 rfl).1, by simpa using (h2 rfl).2⟩
  | false =>
    refine ⟨n, l, fun e he => h1 rfl e (List.mem_of_mem_dropLast he), ?_⟩
    simp only [Bool.false_eq_true, false_iff, not_exists, not_and]
    exact fun e he => h1 rfl e (List.mem_of_getLast? he)

theorem transact_run (s : State) (r : BusRequest) : BusRun s (s.transact r) (s.answer r).error := by
  refine ⟨[busEvent r (s.answer r) s.ctx.state], by simp, fun h => ?_, fun h => ?_⟩
  · cases r <;> simp [BusAnswer.result, h]
  · cases r <;> simp [BusAnswer.result, h]

theorem readRegister_run (addr : Byte) (s : State) : BusRun s (readRegister addr s).2 (readRegister addr s).1.isNone := by
  have h := transact_run s (.read addr)
  unfold readRegister BusAnswer.readByte
  cases he : (s.answer (.read addr)).error <;> rw [he] at h <;> exact h

theorem writeRegister_run (addr value : Byte) (s : State) :
    BusRun s (writeRegister addr value s).2 (!(writeRegister addr value s).1) := by
  have h := transact_run s (.write addr value)
  unfold writeRegister BusAnswer.written
  cases he : (s.answer (.write addr value)).error <;> rw [he] at h <;> exact h

theorem bulkTransfer_run {cmd : Byte} {n : Nat} {s t : State} {bytes : Option (List Byte)}
    (h : bulkTransfer cmd n s = .ok (bytes, t)) : BusRun s t bytes.isNone := by
  unfold bulkTransfer at h
  split at h
  · cases h
  · cases h
    have h := transact_run s (.bulk cmd n)
    unfold BusAnswer.bulkBytes
    cases he : (s.answer (.bulk cmd n)).error <;> rw [he] at h <;> exact h

theorem registerCheck_run (s : State) : BusRun s (registerCheck s).2 ((registerCheck s).1 == .busErr) := by
  have hr := ((BusRun.refl s).update (u := s.advanceCursor)).trans
    (readRegister_run (tableEntry s.cfg.table s.ctx.cursor).reg s.advanceCursor)
  unfold registerCheck
  split <;> rename_i h <;> rw [h] at hr
  · exact hr
  · split
    · exact hr
    · exact hr.update

theorem readPair_run (lo hi : Byte) (s : State) : BusRun s (readPair lo hi s).2 (readPair lo hi s).1.isNone := by
  have h1 := readRegister_run lo s
  unfold readPair
  split <;> rename_i h <;> rw [h] at h1
  · exact h1
  · have h2 := h1.trans (readRegister_run hi _)
    split <;> rename_i h' <;> rw [h'] at h2 <;> exact h2

theorem classifyCount_ne_busErr (p : Params) (raw : Nat) : classifyCount p raw ≠ .busErr := by
  unfold classifyCount
  split
  · nofun
  · split <;> nofun

theorem readFifoCount_run (s : State) : BusRun s (readFifoCount s).2 ((readFifoCount s).1 == .busErr) := by
  have hp := readPair_run s.cfg.regFifoLenLo s.cfg.regFifoLenHi s
  unfold readFifoCount
  split <;> rename_i h <;> rw [h] at hp
  · exact hp
  · rename_i raw s1
    have hc := classifyCount_ne_busErr s1.cfg raw.toNat
    revert hc
    cases classifyCount s1.cfg raw.toNat with
    | count n => exact fun _ => hp
    | busErr => exact fun hc => absurd rfl hc
    | empty => exact fun _ => hp.update
    | overflow => exact fun _ => hp.update

theorem scanOutcome_ne_busErr (bad : Option Nat) : (scanOutcome bad == .busErr) = false := by cases bad <;> rfl

theorem fifoRead_run {now : Time} {n : Nat} {s t : State} {r : FifoReadOutcome}
    (h : fifoRead now n s = .ok (r, t)) : BusRun s t (r == .busErr) := by
  have scan : ∀ u bad, BusRun s u false → BusRun s (u.countScan bad) (scanOutcome bad == .busErr) := by
    intro u bad hu
    rw [scanOutcome_ne_busErr]
    exact hu.update (by rw [State.countScan_out])
  unfold fifoRead at h
  split at h
  · cases h
  · rename_i hb
    cases h
    exact (bulkTransfer_run hb).update
  · rename_i hb
    have hu := bulkTransfer_run hb
    unfold parseBlock at h
    split at h
    · cases h
      exact hu.update
    · split at h
      · cases h
        exact scan _ _ hu
      · split at h
        · cases h
        · cases h
          exact (scan _ _ hu).update

theorem fifoReset_run (s : State) : BusRun s (fifoReset s).2 ((fifoReset s).1 == .busErr) := by
  have hw := writeRegister_run s.cfg.regCmdFlush s.cfg.valFlush s
  unfold fifoReset
  split <;> rename_i h <;> rw [h] at hw
  · exact hw
  · exact hw.update

theorem temperatureUpdate_run (now : Time) (s : State) :
    BusRun s (temperatureUpdate now s).2 ((temperatureUpdate now s).1 == .busErr) := by
  have hp := readPair_run s.cfg.regTempLo s.cfg.regTempHi s
  unfold temperatureUpdate
  split <;> rename_i h <;> rw [h] at hp
  · exact hp
  · exact hp.update

/-! ## The steps of a FIFO_READ tick -/

theorem checkStep_run (now : Time) (s : State) : BusRun s (checkStep now s).2 ((checkStep now s).1 == .busErr) := by
  unfold checkStep
  split
  · exact ((BusRun.refl s).update (u := s.noteCfgCheck now)).trans (registerCheck_run _)
  · exact .refl s

theorem flushStep_run (s : State) : BusRun s (flushStep s).2 (flushStep s).1 := by
  have hf := fifoReset_run s
  unfold flushStep
  split <;> rename_i h <;> rw [h] at hf <;> exact hf

theorem badBatchStep_run (s : State) : BusRun s (badBatchStep s).2 (badBatchStep s).1 := by
  have h0 : BusRun s s.badBatch false := (BusRun.refl s).update
  unfold badBatchStep
  split
  · exact h0.trans (flushStep_run _)
  · exact h0

theorem fifoReadStep_run {now : Time} {n : Nat} {s t : State} {b : Bool} (h : fifoReadStep now n s = .ok (b, t)) :
    BusRun s t b := by
  have bad : ∀ u, BusRun s u false → badBatchStep u = (b, t) → BusRun s t b := fun u hu hb => by
    simpa [hb] using hu.trans (badBatchStep_run u)
  unfold fifoReadStep at h
  split at h <;> rename_i hf
  · cases h
  · cases h
    exact (fifoRead_run hf).update
  · cases h
    exact fifoRead_run hf
  · exact bad _ (fifoRead_run hf) (Except.ok.inj h)
  · exact bad _ (fifoRead_run hf) (Except.ok.inj h)

theorem fifoWork_run {now : Time} {s t : State} {b : Bool} (h : fifoWork now s = .ok (b, t)) : BusRun s t b := by
  have hc := readFifoCount_run s
  unfold fifoWork at h
  split at h <;> rename_i u hr <;> rw [hr] at hc
  · cases h
    exact hc
  · cases h
    exact hc
  · have hf := flushStep_run u
    rw [Except.ok.inj h] at hf
    exact hc.trans hf
  · exact hc.trans (fifoReadStep_run h)

theorem fifoStep_run {now : Time} {seen : Bool} {s t : State} {b : Bool} (h : fifoStep now seen s = .ok (b, t)) :
    BusRun s t b := by
  unfold fifoStep at h
  split at h
  · exact ((BusRun.refl s).update (u := s.markStall now seen)).trans (fifoWork_run h)
  · cases h
    exact .refl s

theorem temperatureStep_run {now : Time} {busErr : Bool} {s t : State} (h : BusRun s t busErr) :
    BusRun s (temperatureStep now busErr t).2 (temperatureStep now busErr t).1 := by
  have ht := temperatureUpdate_run now t
  unfold temperatureStep
  split
  · rename_i hc
    obtain rfl : busErr = false := by
      cases busErr
      · rfl
      · cases hc
    split <;> rename_i hu <;> rw [hu] at ht <;> exact h.trans ht
  · exact h

end Sys2Proof.Machine
end

