-- ==== Sys2Proof/Laws/Fifo.lean ====
section
/-!
SUPPORT. What the pipeline's four operations can do.
-/

namespace Sys2Proof.Machine

theorem readPair_did {P : BusEvent → Prop} (lo hi : Byte) (s : State)
    (hl : ∀ a, P (busEvent (.read lo) a s.ctx.state)) (hh : ∀ a, P (busEvent (.read hi) a s.ctx.state)) :
    Did P s s.ctx (readPair lo hi s).2 := by
  have h1 := readRegister_did P lo s hl
  have h2 := readRegister_did P hi (readRegister lo s).2 (by rw [h1.ctx]; exact hh)
  rw [h1.ctx] at h2
  unfold readPair
  split
  · rename_i s1 h
    rw [h] at h1
    exact h1
  · rename_i l s1 h
    rw [h] at h1 h2
    split
    · rename_i s2 h'
      rw [h'] at h2
      exact h1.trans h2
    · rename_i b s2 h'
      rw [h'] at h2
      exact h1.trans h2

/-- ReadFifoCount writes at most the two count counters, and never lowers them. -/
theorem readFifoCount_did {P : BusEvent → Prop} (s : State)
    (hl : ∀ a, P (busEvent (.read s.cfg.regFifoLenLo) a s.ctx.state))
    (hh : ∀ a, P (busEvent (.read s.cfg.regFifoLenHi) a s.ctx.state)) :
    ∃ n m, s.ctx.cntFifoEmpty ≤ n ∧ s.ctx.cntFifoOverflow ≤ m ∧
      Did P s { s.ctx with cntFifoEmpty := n, cntFifoOverflow := m } (readFifoCount s).2 := by
  have hp := readPair_did s.cfg.regFifoLenLo s.cfg.regFifoLenHi s hl hh
  unfold readFifoCount
  split
  · rename_i s1 h
    rw [h] at hp
    exact ⟨_, _, BitVec.le_refl _, BitVec.le_refl _, hp⟩
  · rename_i raw s1 h
    rw [h] at hp
    have hc : s1.ctx = s.ctx := hp.ctx
    cases classifyCount s1.cfg raw.toNat with
    | count n => exact ⟨_, _, BitVec.le_refl _, BitVec.le_refl _, hp⟩
    | busErr => exact ⟨_, _, BitVec.le_refl _, BitVec.le_refl _, hp⟩
    | empty => exact ⟨satInc s.ctx.cntFifoEmpty, _, le_satInc _, BitVec.le_refl _,
        hp.update (by simp only [State.countOutcome, State.countFifoEmpty_ctx]; rw [hc])⟩
    | overflow => exact ⟨_, satInc s.ctx.cntFifoOverflow, BitVec.le_refl _, le_satInc _,
        hp.update (by simp only [State.countOutcome, State.countFifoOverflow_ctx]; rw [hc])⟩

/-- A count ReadFifoCount reports is at least 1 where the capacities are (R127). -/
theorem classifyCount_pos {p : Params} {raw n : Nat} (h : classifyCount p raw = .count n) (hm : 1 ≤ p.maxSamples) :
    1 ≤ n := by
  unfold classifyCount at h
  split at h
  · cases h
  · split at h
    · cases h
    · rename_i h2
      cases h
      exact Nat.le_min.mpr ⟨Nat.pos_of_ne_zero h2, hm⟩

/-- A count ReadFifoCount reports never exceeds min(DEV_FIFO_CAP, CONS_BATCH_CAP) (R127). -/
theorem classifyCount_le {p : Params} {raw n : Nat} (h : classifyCount p raw = .count n) : n ≤ p.maxSamples := by
  unfold classifyCount at h
  split at h
  · cases h
  · split at h
    · cases h
    · cases h
      omega

/-! ## The scan of a block (R128, R130) -/

/-- A scan validates exactly the frames before the first bad one, in order. -/
theorem scanFrames_spec (p : Params) (buf : List Byte) (left k : Nat) :
    (scanFrames p buf left k).1 =
        (List.range (scanFrames p buf left k).1.length).map (fun i => rawSample (k + i) (frameAt buf (k + i))) ∧
      (∀ i < (scanFrames p buf left k).1.length, p.tagClass (frameByte (frameAt buf (k + i)) 0) = .valid) ∧
      match (scanFrames p buf left k).2 with
      | none => (scanFrames p buf left k).1.length = left
      | some b => b = k + (scanFrames p buf left k).1.length ∧ b < k + left ∧
          p.tagClass (frameByte (frameAt buf b) 0) ≠ .valid := by
  induction left generalizing k with
  | zero => simp [scanFrames]
  | succ left ih =>
    unfold scanFrames
    split
    · rename_i hv
      obtain ⟨h1, h2, h3⟩ := ih (k + 1)
      refine ⟨?_, ?_, ?_⟩
      · simp only [List.length_cons, List.range_succ_eq_map, List.map_cons, Nat.add_zero, List.map_map]
        congr 1
        rw [h1]
        simp only [List.length_map, List.length_range]
        apply List.map_congr_left
        intro i _
        simp only [Function.comp_apply]
        rw [show k + 1 + i = k + (i + 1) by omega]
      · intro i hi
        cases i with
        | zero => simpa using hv
        | succ i =>
          have := h2 i (by simpa using hi)
          rwa [show k + 1 + i = k + (i + 1) by omega] at this
      · revert h3
        cases (scanFrames p buf left (k + 1)).2 with
        | none => intro h3; simpa using h3
        | some b =>
          rintro ⟨h3, h4, h5⟩
          exact ⟨by simp only [List.length_cons]; omega, by omega, h5⟩
    · rename_i hv
      exact ⟨rfl, by simp, by simp, by omega, by simp [hv]⟩
    · rename_i hv
      exact ⟨rfl, by simp, by simp, by omega, by simp [hv]⟩

/-- The batch FifoRead emits is one the consumer may see (R99, R128 to R131). -/
theorem batchOf_ok {p : Params} {t : Time} {n : Nat} {buf : List Byte} {x : RawSample} {rest : List RawSample}
    {bad : Option Nat} (hs : scanFrames p buf n 0 = (x :: rest, bad)) (hn : n ≤ p.maxSamples)
    (hu : underflows t n p.sampleIntervalUs = false) : BatchOk p (batchOf p t n (x :: rest)) := by
  obtain ⟨h1, -, h3⟩ := scanFrames_spec p buf n 0
  rw [hs] at h1 h3
  simp only at h1 h3
  have hlen : (x :: rest).length ≤ n := by
    cases bad with
    | none => simp only at h3; omega
    | some b => simp only at h3; omega
  have hu' : (n - 1) * p.sampleIntervalUs ≤ t.toNat := by simpa [underflows] using hu
  have hk : ∀ (j : Nat) (hj : j < (x :: rest).length), ((x :: rest)[j]).k = j := by
    intro j hj
    have : (x :: rest)[j]? = some (rawSample (0 + j) (frameAt buf (0 + j))) := by
      rw [h1, List.getElem?_map, List.getElem?_range hj]; rfl
    rw [List.getElem?_eq_getElem hj] at this
    simpa [rawSample] using congrArg RawSample.k (Option.some.inj this)
  refine ⟨by simp [batchOf], by simp only [batchOf, List.length_map]; omega, ?_, rfl, ?_⟩
  · rw [List.isChain_iff_getElem]
    intro i hi
    simp only [batchOf, List.length_map] at hi
    simp only [batchOf, List.getElem_map, sampleOf, sampleTime, hk, BitVec.toNat_ofNat]
    have ht := t.isLt
    have e1 : (n - 1 - i) * p.sampleIntervalUs ≤ (n - 1) * p.sampleIntervalUs := Nat.mul_le_mul_right _ (by omega)
    have e2 : (n - 1 - i) * p.sampleIntervalUs = (n - 1 - (i + 1)) * p.sampleIntervalUs + p.sampleIntervalUs := by
      rw [show n - 1 - i = (n - 1 - (i + 1)) + 1 by omega, Nat.add_mul, Nat.one_mul]
    rw [Nat.mod_eq_of_lt (by omega), Nat.mod_eq_of_lt (by omega)]
    omega
  · intro y hy
    simp only [batchOf, List.mem_map] at hy
    obtain ⟨r, _, rfl⟩ := hy
    exact ⟨rfl, rfl, rfl⟩

/-- FifoRead writes at most the bad-transfer counter, which it never lowers, and appends no batch but one the consumer may
see. -/
theorem fifoRead_did {P : BusEvent → Prop} {now : Time} {n : Nat} {s t : State} {r : FifoReadOutcome}
    (h : fifoRead now n s = .ok (r, t))
    (hP : ∀ a, P (busEvent (.bulk s.cfg.regFifoData (blockLength n)) a s.ctx.state)) :
    ∃ m, s.ctx.cntBadTransfer ≤ m ∧ Did P s { s.ctx with cntBadTransfer := m } t := by
  have count : ∀ u, Did P s s.ctx u → Did P s { s.ctx with cntBadTransfer := satInc s.ctx.cntBadTransfer } u.countBadTransfer :=
    fun u hu => hu.update (by rw [State.countBadTransfer_ctx, hu.ctx])
  have scan : ∀ u bad, Did P s s.ctx u →
      ∃ m, s.ctx.cntBadTransfer ≤ m ∧ Did P s { s.ctx with cntBadTransfer := m } (u.countScan bad) := by
    intro u bad hu
    cases bad with
    | none => exact ⟨_, BitVec.le_refl _, hu⟩
    | some k => exact ⟨_, le_satInc _, count u hu⟩
  unfold fifoRead at h
  split at h
  · cases h
  · rename_i u hb
    cases h
    exact ⟨_, le_satInc _, count u (bulkTransfer_did hb hP).1⟩
  · rename_i buf u hb
    have hu := (bulkTransfer_did hb hP).1
    unfold parseBlock at h
    split at h
    · cases h
      exact ⟨_, le_satInc _, count u hu⟩
    · split at h
      · cases h
        exact scan u _ hu
      · rename_i x rest bad hs
        split at h
        · cases h
        · rename_i hun
          cases h
          obtain ⟨m, hm, hd⟩ := scan u bad hu
          obtain ⟨bs, hb1, hb2⟩ := hd.batches
          rw [State.countScan_out] at hb1
          refine ⟨m, hm, hd.cfg, hd.ctx, hd.faults,
            ⟨bs ++ [batchOf u.cfg now n (x :: rest)], by simp [State.emit, hb1], ?_⟩, hd.diagnostics, hd.lastOutcome,
            hd.log, hd.program, hd.time, hd.opDraws, hd.timeDraws⟩
          have hg : u.cfg = s.cfg := hu.cfg
          have hl := (bulkTransfer_did hb hP).2.2
          rw [hg] at hs hun ⊢
          intro b hb'
          rcases List.mem_append.mp hb' with h' | h'
          · exact hb2 b h'
          · rw [List.mem_singleton.mp h']
            refine batchOf_ok hs ?_ (by simpa using hun)
            unfold Params.scratchSize blockLength frameSize axes tagBytes at hl
            omega

/-- The only faults of FifoRead: ScratchOverflow and TimestampUnderflow, raised in a state with no other new fault (R115, R128). -/
theorem fifoRead_error {now : Time} {n : Nat} {s : State} {f : Fault} (h : fifoRead now n s = .error f) :
    ∃ u : State, u.faults = s.faults ∧
      (f = .scratchOverflow (blockLength n) (u.raise .scratchOverflow) ∨
        f = .timestampUnderflow now n s.cfg.sampleIntervalUs (u.raise .timestampUnderflow)) := by
  unfold fifoRead at h
  split at h
  · rename_i f' hb
    cases h
    unfold bulkTransfer at hb
    split at hb
    · cases hb
      exact ⟨s, rfl, .inl rfl⟩
    · cases hb
  · cases h
  · rename_i buf u hb
    have hu := (bulkTransfer_did (P := fun _ => True) hb fun _ => trivial).1
    unfold parseBlock at h
    split at h
    · cases h
    · split at h
      · cases h
      · rename_i bad _
        split at h
        · cases h
          exact ⟨u.countScan bad, by rw [State.countScan_faults, hu.faults], .inr (by rw [hu.cfg])⟩
        · cases h

/-- FifoReset writes at most the bad-frame streak, which it clears, and the FIFO-reset counter, which it never lowers. -/
theorem fifoReset_did {P : BusEvent → Prop} (s : State)
    (hP : ∀ a, P (busEvent (.write s.cfg.regCmdFlush s.cfg.valFlush) a s.ctx.state)) :
    ∃ b n, s.ctx.cntFifoReset ≤ n ∧ Did P s { s.ctx with badframeStreak := b, cntFifoReset := n } (fifoReset s).2 := by
  have hw := writeRegister_did P s.cfg.regCmdFlush s.cfg.valFlush s hP
  unfold fifoReset
  split
  · rename_i s1 h
    rw [h] at hw
    exact ⟨_, _, BitVec.le_refl _, hw⟩
  · rename_i s1 h
    rw [h] at hw
    have hc : s1.ctx = s.ctx := hw.ctx
    exact ⟨0, satInc s.ctx.cntFifoReset, le_satInc _, hw.update (by rw [State.flushed_ctx, hc])⟩

/-- TemperatureUpdate writes the three temperature fields together, or none of them. -/
theorem temperatureUpdate_did {P : BusEvent → Prop} (now : Time) (s : State)
    (hl : ∀ a, P (busEvent (.read s.cfg.regTempLo) a s.ctx.state))
    (hh : ∀ a, P (busEvent (.read s.cfg.regTempHi) a s.ctx.state)) :
    Did P s s.ctx (temperatureUpdate now s).2 ∧ (temperatureUpdate now s).1 = .busErr ∨
      ∃ raw, Did P s { s.ctx with tempRaw := some raw, temperature := some (Config.tempConvert raw), tTemp := some now }
        (temperatureUpdate now s).2 ∧ (temperatureUpdate now s).1 = .ok := by
  have hp := readPair_did s.cfg.regTempLo s.cfg.regTempHi s hl hh
  unfold temperatureUpdate
  split
  · rename_i s1 h
    rw [h] at hp
    exact .inl ⟨hp, rfl⟩
  · rename_i raw s1 h
    rw [h] at hp
    have hc : s1.ctx = s.ctx := hp.ctx
    exact .inr ⟨raw, hp.update (by rw [State.setTemperature_ctx, hc]), rfl⟩

/-- SoftReset keeps the context (R145). -/
theorem softReset_did {P : BusEvent → Prop} (s : State)
    (hP : ∀ a, P (busEvent (.write s.cfg.regCmdSoftreset s.cfg.valSoftreset) a s.ctx.state)) :
    Did P s s.ctx (softReset s).2 := by
  have hw := writeRegister_did P s.cfg.regCmdSoftreset s.cfg.valSoftreset s hP
  unfold softReset
  split <;> rename_i s1 h <;> rw [h] at hw <;> exact hw

/-! ## The operations as equations over the transport's answers -/

/-- A register pair whose first read fails: one transaction (R96). -/
theorem readPair_lo {lo hi : Byte} {s : State} (h : (s.answer (.read lo)).error = true) :
    readPair lo hi s = (none, s.transact (.read lo)) := by
  simp [readPair, readRegister, BusAnswer.readByte, h]

/-- A register pair whose first read succeeds: two transactions, and the pair if the second succeeds (R96). -/
theorem readPair_hi {lo hi : Byte} {s : State} (h : (s.answer (.read lo)).error = false) :
    readPair lo hi s =
      (if ((s.transact (.read lo)).answer (.read hi)).error then none
        else some (pair (s.answer (.read lo)).byte ((s.transact (.read lo)).answer (.read hi)).byte),
        (s.transact (.read lo)).transact (.read hi)) := by
  simp only [readPair, readRegister, BusAnswer.readByte, h, Bool.false_eq_true, if_false]
  by_cases h2 : ((s.transact (.read lo)).answer (.read hi)).error = true <;> simp [h2]

/-- ReadFifoCount from the pair it reads (R126). -/
theorem readFifoCount_eq (s : State) : readFifoCount s =
    match (readPair s.cfg.regFifoLenLo s.cfg.regFifoLenHi s).1 with
    | none => (.busErr, (readPair s.cfg.regFifoLenLo s.cfg.regFifoLenHi s).2)
    | some raw => (classifyCount s.cfg raw.toNat,
        (readPair s.cfg.regFifoLenLo s.cfg.regFifoLenHi s).2.countOutcome (classifyCount s.cfg raw.toNat)) := by
  have hc := (readPair_did (P := fun _ => True) s.cfg.regFifoLenLo s.cfg.regFifoLenHi s (fun _ => trivial)
    fun _ => trivial).cfg
  unfold readFifoCount
  split <;> rename_i h <;> rw [h] at hc ⊢
  simp only at hc ⊢
  rw [hc]

/-- TemperatureUpdate from the pair it reads (R136). -/
theorem temperatureUpdate_eq (now : Time) (s : State) : temperatureUpdate now s =
    match (readPair s.cfg.regTempLo s.cfg.regTempHi s).1 with
    | none => (.busErr, (readPair s.cfg.regTempLo s.cfg.regTempHi s).2)
    | some raw => (.ok, (readPair s.cfg.regTempLo s.cfg.regTempHi s).2.setTemperature now raw) := by
  unfold temperatureUpdate
  split <;> rename_i h <;> rw [h]

/-- FifoReset from the answer to its write (R134). -/
theorem fifoReset_eq (s : State) : fifoReset s =
    if (s.answer (.write s.cfg.regCmdFlush s.cfg.valFlush)).error then
      (.busErr, s.transact (.write s.cfg.regCmdFlush s.cfg.valFlush))
    else (.ok, (s.transact (.write s.cfg.regCmdFlush s.cfg.valFlush)).flushed) := by
  unfold fifoReset writeRegister BusAnswer.written
  cases (s.answer (.write s.cfg.regCmdFlush s.cfg.valFlush)).error <;> rfl

/-- SoftReset from the answer to its write (R145). -/
theorem softReset_eq (s : State) : softReset s =
    (if (s.answer (.write s.cfg.regCmdSoftreset s.cfg.valSoftreset)).error then .busErr else .ok,
      s.transact (.write s.cfg.regCmdSoftreset s.cfg.valSoftreset)) := by
  unfold softReset writeRegister BusAnswer.written
  cases (s.answer (.write s.cfg.regCmdSoftreset s.cfg.valSoftreset)).error <;> rfl

/-- FifoRead within the scratch buffer, from the transport's answer (R128). -/
theorem fifoRead_eq {now : Time} {n : Nat} {s : State} (h : n ≤ s.cfg.maxSamples) : fifoRead now n s =
    if (s.answer (.bulk s.cfg.regFifoData (blockLength n))).error then
      .ok (.busErr, (s.transact (.bulk s.cfg.regFifoData (blockLength n))).countBadTransfer)
    else parseBlock now n (s.answer (.bulk s.cfg.regFifoData (blockLength n))).block
      (s.transact (.bulk s.cfg.regFifoData (blockLength n))) := by
  have hl : ¬ s.cfg.scratchSize < blockLength n := by
    unfold Params.scratchSize blockLength
    have := Nat.mul_le_mul_right frameSize h
    omega
  unfold fifoRead bulkTransfer BusAnswer.bulkBytes
  rw [if_neg hl]
  cases (s.answer (.bulk s.cfg.regFifoData (blockLength n))).error <;> rfl

/-- No batch is emitted by a register pair. -/
theorem readPair_batches (lo hi : Byte) (s : State) : (readPair lo hi s).2.out.batches = s.out.batches := by
  cases h : (s.answer (.read lo)).error
  · rw [readPair_hi h]; simp
  · rw [readPair_lo h]; simp

end Sys2Proof.Machine
end

