-- ==== Sys2Proof/Laws/Verifier.lean ====
section
/-!
SUPPORT. What Configure and RegisterCheck can do.
-/

namespace Sys2Proof.Machine

/-- The events Configure may issue in a state: reads and writes of table registers. -/
def ConfigEvents (P : BusEvent → Prop) (table : List RegisterConfigEntry) (st : AcqState) : Prop :=
  ∀ e ∈ table, ∀ a, P (busEvent (.read e.reg) a st) ∧ ∀ v, P (busEvent (.write e.reg v) a st)

theorem configBase_did {P : BusEvent → Prop} (addr : Byte) (s : State) (hP : ∀ a, P (busEvent (.read addr) a s.ctx.state)) :
    Did P s s.ctx (configBase addr s).2 := by
  unfold configBase
  split
  · exact readRegister_did P addr s hP
  · exact Did.refl P s

theorem applyEntry_did {P : BusEvent → Prop} {e : RegisterConfigEntry} (s : State)
    (hP : ConfigEvents P [e] s.ctx.state) : Did P s s.ctx (applyEntry e s).2 := by
  have hb := configBase_did (P := P) e.reg s fun a => (hP e (by simp) a).1
  unfold applyEntry
  split
  · rename_i s1 h
    rw [h] at hb
    exact hb
  · rename_i base s1 h
    rw [h] at hb
    have hw := writeRegister_did P e.reg (configValue e base) s1 fun a => by
      rw [hb.ctx]; exact (hP e (by simp) a).2 _
    rw [hb.ctx] at hw
    exact hb.trans hw

/-- Phase 1 keeps the context. -/
theorem applyTable_did {P : BusEvent → Prop} (es : List RegisterConfigEntry) (s : State)
    (hP : ConfigEvents P es s.ctx.state) : Did P s s.ctx (applyTable es s).2 := by
  induction es generalizing s with
  | nil => exact Did.refl P s
  | cons e rest ih =>
    have he := applyEntry_did (P := P) (e := e) s fun e' h' a => hP e' (by simp_all) a
    unfold applyTable
    split
    · rename_i s1 h
      rw [h] at he
      exact he
    · rename_i s1 h
      rw [h] at he
      have hr := ih s1 fun e' h' a => by rw [he.ctx]; exact hP e' (List.mem_cons_of_mem _ h') a
      rw [he.ctx] at hr
      exact he.trans hr

/-- One readback writes at most the bad-register counter, and never lowers it. -/
theorem verifyEntry_did {P : BusEvent → Prop} {e : RegisterConfigEntry} (s : State)
    (hP : ConfigEvents P [e] s.ctx.state) :
    ∃ n, s.ctx.cntBadRegister ≤ n ∧ Did P s { s.ctx with cntBadRegister := n } (verifyEntry e s).2 := by
  have hr := readRegister_did P e.reg s fun a => (hP e (by simp) a).1
  unfold verifyEntry
  split
  · rename_i s1 h
    rw [h] at hr
    exact ⟨_, BitVec.le_refl _, hr⟩
  · rename_i r s1 h
    rw [h] at hr
    split
    · exact ⟨_, BitVec.le_refl _, hr⟩
    · refine ⟨satInc s.ctx.cntBadRegister, le_satInc _, ?_⟩
      have hc : s1.ctx = s.ctx := hr.ctx
      exact hr.update (by rw [State.countBadRegister_ctx, hc])

/-- Phase 2 writes at most the bad-register counter, and never lowers it. -/
theorem verifyTable_did {P : BusEvent → Prop} (es : List RegisterConfigEntry) (bad : Nat) (s : State)
    (hP : ConfigEvents P es s.ctx.state) :
    ∃ n, s.ctx.cntBadRegister ≤ n ∧ Did P s { s.ctx with cntBadRegister := n } (verifyTable es bad s).2 := by
  induction es generalizing s bad with
  | nil => exact ⟨_, BitVec.le_refl _, Did.refl P s⟩
  | cons e rest ih =>
    obtain ⟨n, hn, he⟩ := verifyEntry_did (P := P) (e := e) s fun e' h' a => hP e' (by simp_all) a
    have step : ∀ bad' s1, (verifyEntry e s).2 = s1 →
        ∃ n, s.ctx.cntBadRegister ≤ n ∧ Did P s { s.ctx with cntBadRegister := n } (verifyTable rest bad' s1).2 := by
      rintro bad' s1 rfl
      obtain ⟨m, hm, hr⟩ := ih bad' (verifyEntry e s).2 fun e' h' a => by
        rw [he.ctx]; exact hP e' (List.mem_cons_of_mem _ h') a
      simp only [he.ctx] at hm hr
      exact ⟨m, BitVec.le_trans hn hm, he.trans hr⟩
    unfold verifyTable
    split
    · rename_i s1 h
      rw [h] at he
      exact ⟨n, hn, he⟩
    · rename_i s1 h
      exact step _ s1 (by rw [h])
    · rename_i s1 h
      exact step _ s1 (by rw [h])

/-- Configure writes at most the bad-register counter, and never lowers it; its events are those of the table. -/
theorem configure_did {P : BusEvent → Prop} (s : State) (hP : ConfigEvents P s.cfg.table s.ctx.state) :
    ∃ n, s.ctx.cntBadRegister ≤ n ∧ Did P s { s.ctx with cntBadRegister := n } (configure s).2 := by
  have ha := applyTable_did (P := P) s.cfg.table s hP
  unfold configure
  split
  · rename_i s1 h
    rw [h] at ha
    exact ⟨_, BitVec.le_refl _, ha⟩
  · rename_i s1 h
    rw [h] at ha
    obtain ⟨n, hn, hv⟩ := verifyTable_did (P := P) s1.cfg.table 0 s1 (by rw [ha.cfg, ha.ctx]; exact hP)
    rw [ha.ctx] at hn hv
    exact ⟨n, hn, ha.trans hv⟩

/-- Moving the cursor on changes no answer of the transport. -/
@[simp] theorem State.advanceCursor_answer (s : State) (r : BusRequest) : s.advanceCursor.answer r = s.answer r := rfl

/-- RegisterCheck moves the cursor on and writes at most the bad-register counter, which it never lowers. -/
theorem registerCheck_did {P : BusEvent → Prop} (s : State)
    (hP : ∀ a, P (busEvent (.read (tableEntry s.cfg.table s.ctx.cursor).reg) a s.ctx.state)) :
    ∃ n, s.ctx.cntBadRegister ≤ n ∧
      Did P s { s.ctx with cursor := (s.ctx.cursor + 1) % s.cfg.table.length, cntBadRegister := n } (registerCheck s).2 := by
  have h0 : Did P s s.advanceCursor.ctx s.advanceCursor := (Did.refl P s).update rfl
  have hr := h0.trans (readRegister_did P (tableEntry s.cfg.table s.ctx.cursor).reg s.advanceCursor hP)
  unfold registerCheck
  split
  · rename_i s1 h
    rw [h] at hr
    exact ⟨_, BitVec.le_refl _, hr⟩
  · rename_i r s1 h
    rw [h] at hr
    split
    · exact ⟨_, BitVec.le_refl _, hr⟩
    · refine ⟨satInc s.ctx.cntBadRegister, le_satInc _, ?_⟩
      have hc : s1.ctx = s.advanceCursor.ctx := hr.ctx
      exact hr.update (by rw [State.countBadRegister_ctx, hc]; rfl)

/-- A mismatch is the only outcome of RegisterCheck that names one, and its state has it counted; the table entry read is the one
at the cursor before it moved. -/
theorem registerCheck_eq (s : State) :
    registerCheck s =
      match (s.answer (.read (tableEntry s.cfg.table s.ctx.cursor).reg)).readByte with
      | none => (.busErr, s.advanceCursor.transact (.read (tableEntry s.cfg.table s.ctx.cursor).reg))
      | some r =>
        if satisfied (tableEntry s.cfg.table s.ctx.cursor) r then
          (.matched, s.advanceCursor.transact (.read (tableEntry s.cfg.table s.ctx.cursor).reg))
        else (.mismatch, (s.advanceCursor.transact (.read (tableEntry s.cfg.table s.ctx.cursor).reg)).countBadRegister) := by
  unfold registerCheck readRegister
  rw [State.advanceCursor_answer]
  cases (s.answer (.read (tableEntry s.cfg.table s.ctx.cursor).reg)).readByte <;> rfl

/-- The entry at a cursor below the table's length. -/
theorem tableEntry_of_lt {t : List RegisterConfigEntry} {i : Nat} (h : i < t.length) : tableEntry t i = t[i] := by
  simp [tableEntry, Nat.mod_eq_of_lt h, h]

/-! ## No batch is emitted by the verifier (R123) -/

theorem applyEntry_batches (e : RegisterConfigEntry) (s : State) : (applyEntry e s).2.out.batches = s.out.batches := by
  unfold applyEntry configBase
  cases s.cfg.configBaseMode with
  | zero => simp [writeRegister]
  | rmw =>
    simp only [readRegister]
    cases (s.answer (.read e.reg)).readByte <;> simp [writeRegister]

theorem applyTable_batches (es : List RegisterConfigEntry) (s : State) :
    (applyTable es s).2.out.batches = s.out.batches := by
  induction es generalizing s with
  | nil => rfl
  | cons e rest ih =>
    have he := applyEntry_batches e s
    unfold applyTable
    split <;> rename_i s1 h <;> rw [h] at he
    · exact he
    · exact (ih s1).trans he

theorem verifyEntry_batches (e : RegisterConfigEntry) (s : State) : (verifyEntry e s).2.out.batches = s.out.batches := by
  unfold verifyEntry readRegister
  cases (s.answer (.read e.reg)).readByte with
  | none => simp
  | some r => by_cases h : satisfied e r = true <;> simp [h]

theorem verifyTable_batches (es : List RegisterConfigEntry) (bad : Nat) (s : State) :
    (verifyTable es bad s).2.out.batches = s.out.batches := by
  induction es generalizing s bad with
  | nil => rfl
  | cons e rest ih =>
    have he := verifyEntry_batches e s
    unfold verifyTable
    split <;> rename_i s1 h <;> rw [h] at he
    · exact he
    · exact (ih _ s1).trans he
    · exact (ih _ s1).trans he

theorem configure_batches (s : State) : (configure s).2.out.batches = s.out.batches := by
  have ha := applyTable_batches s.cfg.table s
  unfold configure
  split <;> rename_i s1 h <;> rw [h] at ha
  · exact ha
  · exact (verifyTable_batches _ _ s1).trans ha

end Sys2Proof.Machine
end

