-- ==== Sys2Proof/Laws/Tick.lean ====
section
/-!
SUPPORT. What one tick can do: each arm, and the tick around it.
-/

namespace Sys2Proof.Machine

/-! ## What the work of a FIFO_READ tick does to the context -/

/-- The fields the work of a FIFO_READ tick keeps, and how it may change the others: the state, the masks, the streak of
failed configurations and of bus errors, the reset time and the tick time are kept; the cursor stays in the table; the check,
data-ready and temperature times are kept or become `now`; no counter is lowered (R151 to R156). -/
structure Worked (p : Params) (now : Time) (c d : Ctx) : Prop where
  state : d.state = c.state
  drdyEnabled : d.drdyEnabled = c.drdyEnabled
  timerEnabled : d.timerEnabled = c.timerEnabled
  initFailed : d.initFailed = c.initFailed
  tReset : d.tReset = c.tReset
  tLastTick : d.tLastTick = c.tLastTick
  configFailStreak : d.configFailStreak = c.configFailStreak
  busErrorStreak : d.busErrorStreak = c.busErrorStreak
  drdyIntervalLast : d.drdyIntervalLast = c.drdyIntervalLast
  cursor : c.cursor < p.table.length → d.cursor < p.table.length
  tCfgCheck : d.tCfgCheck = c.tCfgCheck ∨ d.tCfgCheck = some now
  tDrdy : d.tDrdy = c.tDrdy ∨ d.tDrdy = some now
  temperature : d.tTemp = c.tTemp ∧ d.tempRaw = c.tempRaw ∧ d.temperature = c.temperature ∨
    ∃ raw, d.tTemp = some now ∧ d.tempRaw = some raw ∧ d.temperature = some (Config.tempConvert raw)
  counters : CountersKept c d

theorem CountersKept.refl (c : Ctx) : CountersKept c c :=
  ⟨BitVec.le_refl _, BitVec.le_refl _, BitVec.le_refl _, BitVec.le_refl _, BitVec.le_refl _⟩

theorem CountersKept.trans {a b c : Ctx} (h : CountersKept a b) (k : CountersKept b c) : CountersKept a c :=
  ⟨BitVec.le_trans h.1 k.1, BitVec.le_trans h.2.1 k.2.1, BitVec.le_trans h.2.2.1 k.2.2.1,
    BitVec.le_trans h.2.2.2.1 k.2.2.2.1, BitVec.le_trans h.2.2.2.2 k.2.2.2.2⟩

theorem Worked.refl (p : Params) (now : Time) (c : Ctx) : Worked p now c c :=
  ⟨rfl, rfl, rfl, rfl, rfl, rfl, rfl, rfl, rfl, id, .inl rfl, .inl rfl, .inl ⟨rfl, rfl, rfl⟩, CountersKept.refl c⟩

theorem Worked.trans {p : Params} {now : Time} {a b c : Ctx} (h : Worked p now a b) (k : Worked p now b c) :
    Worked p now a c where
  state := k.state.trans h.state
  drdyEnabled := k.drdyEnabled.trans h.drdyEnabled
  timerEnabled := k.timerEnabled.trans h.timerEnabled
  initFailed := k.initFailed.trans h.initFailed
  tReset := k.tReset.trans h.tReset
  tLastTick := k.tLastTick.trans h.tLastTick
  configFailStreak := k.configFailStreak.trans h.configFailStreak
  busErrorStreak := k.busErrorStreak.trans h.busErrorStreak
  drdyIntervalLast := k.drdyIntervalLast.trans h.drdyIntervalLast
  cursor := k.cursor ∘ h.cursor
  tCfgCheck := k.tCfgCheck.elim (fun e => e ▸ h.tCfgCheck) .inr
  tDrdy := k.tDrdy.elim (fun e => e ▸ h.tDrdy) .inr
  temperature := by
    rcases k.temperature with ⟨e1, e2, e3⟩ | hr
    · rw [e1, e2, e3]; exact h.temperature
    · exact .inr hr
  counters := h.counters.trans k.counters

/-- A run of the task whose context `Worked` describes. -/
def DidWork (P : BusEvent → Prop) (now : Time) (s t : State) : Prop := Did P s t.ctx t ∧ Worked s.cfg now s.ctx t.ctx

theorem DidWork.refl (P : BusEvent → Prop) (now : Time) (s : State) : DidWork P now s s := ⟨Did.refl P s, Worked.refl _ _ _⟩

theorem DidWork.trans {P : BusEvent → Prop} {now : Time} {s t u : State} (h : DidWork P now s t) (k : DidWork P now t u) :
    DidWork P now s u :=
  ⟨h.1.trans k.1, h.2.trans (h.1.cfg ▸ k.2)⟩

/-- A run with a given context, as work. -/
theorem Did.work {P : BusEvent → Prop} {now : Time} {s t : State} {c : Ctx} (h : Did P s c t)
    (hw : Worked s.cfg now s.ctx c) : DidWork P now s t := by
  obtain rfl := h.ctx
  exact ⟨h, hw⟩

/-- Events of the task in FIFO_READ: whatever `P` asks holds of every event with that state. -/
def InFifoRead (P : BusEvent → Prop) : Prop := ∀ e, e.state = .fifoRead → P e

theorem checkStep_work {P : BusEvent → Prop} (hP : InFifoRead P) (now : Time) (s : State) (hs : s.ctx.state = .fifoRead) :
    DidWork P now s (checkStep now s).2 := by
  unfold checkStep
  split
  · obtain ⟨n, hn, hd⟩ := registerCheck_did (P := P) (s.noteCfgCheck now)
      fun a => hP _ (by simpa using hs)
    have h0 : Did P s { s.ctx with tCfgCheck := some now } (s.noteCfgCheck now) :=
      (Did.refl P s).update rfl
    refine (h0.trans hd).work
      { Worked.refl s.cfg now s.ctx with
        cursor := fun h => Nat.mod_lt _ (Nat.lt_of_le_of_lt (Nat.zero_le _) h)
        tCfgCheck := .inr rfl
        counters := ⟨hn, (CountersKept.refl s.ctx).2⟩ }
  · exact DidWork.refl P now s

theorem flushStep_work {P : BusEvent → Prop} (hP : InFifoRead P) (now : Time) (s : State) (hs : s.ctx.state = .fifoRead) :
    DidWork P now s (flushStep s).2 := by
  obtain ⟨b, n, hn, hd⟩ := fifoReset_did (P := P) s fun a => hP _ (by simpa using hs)
  have hw : DidWork P now s (fifoReset s).2 := hd.work
    { Worked.refl s.cfg now s.ctx with
      counters := ⟨BitVec.le_refl _, BitVec.le_refl _, BitVec.le_refl _, BitVec.le_refl _, hn⟩ }
  unfold flushStep
  split <;> rename_i s1 h <;> rw [h] at hw <;> exact hw

theorem badBatchStep_work {P : BusEvent → Prop} (hP : InFifoRead P) (now : Time) (s : State)
    (hs : s.ctx.state = .fifoRead) : DidWork P now s (badBatchStep s).2 := by
  have h0 : DidWork P now s s.badBatch :=
    ((Did.refl P s).update (u := s.badBatch) rfl).work { Worked.refl s.cfg now s.ctx with counters := CountersKept.refl _ }
  unfold badBatchStep
  split
  · exact h0.trans (flushStep_work hP now _ hs)
  · exact h0

theorem fifoReadStep_work {P : BusEvent → Prop} (hP : InFifoRead P) {now : Time} {n : Nat} {s t : State} {b : Bool}
    (hs : s.ctx.state = .fifoRead) (h : fifoReadStep now n s = .ok (b, t)) : DidWork P now s t := by
  have run : ∀ r u, fifoRead now n s = .ok (r, u) → DidWork P now s u ∧ u.ctx.state = .fifoRead := by
    intro r u hu
    obtain ⟨m, hm, hd⟩ := fifoRead_did hu fun a => hP _ (by simpa using hs)
    refine ⟨hd.work { Worked.refl s.cfg now s.ctx with
      counters := ⟨BitVec.le_refl _, hm, BitVec.le_refl _, BitVec.le_refl _, BitVec.le_refl _⟩ }, ?_⟩
    rw [hd.ctx]; exact hs
  unfold fifoReadStep at h
  split at h
  · cases h
  · rename_i s1 hr
    cases h
    refine (run _ _ hr).1.trans (((Did.refl P s1).update rfl).work
      { Worked.refl s1.cfg now s1.ctx with counters := CountersKept.refl _ })
  · rename_i s1 hr
    cases h
    exact (run _ _ hr).1
  · rename_i k s1 hr
    obtain ⟨h1, h2⟩ := run _ _ hr
    have e : t = (badBatchStep s1).2 := (congrArg Prod.snd (Except.ok.inj h)).symm
    exact e ▸ h1.trans (badBatchStep_work hP now s1 h2)
  · rename_i s1 hr
    obtain ⟨h1, h2⟩ := run _ _ hr
    have e : t = (badBatchStep s1).2 := (congrArg Prod.snd (Except.ok.inj h)).symm
    exact e ▸ h1.trans (badBatchStep_work hP now s1 h2)

theorem fifoWork_work {P : BusEvent → Prop} (hP : InFifoRead P) {now : Time} {s t : State} {b : Bool}
    (hs : s.ctx.state = .fifoRead) (h : fifoWork now s = .ok (b, t)) : DidWork P now s t := by
  obtain ⟨n, m, hn, hm, hd⟩ := readFifoCount_did (P := P) s (fun a => hP _ (by simpa using hs))
    fun a => hP _ (by simpa using hs)
  have h1 : DidWork P now s (readFifoCount s).2 := hd.work { Worked.refl s.cfg now s.ctx with
    counters := ⟨BitVec.le_refl _, BitVec.le_refl _, hn, hm, BitVec.le_refl _⟩ }
  have hs1 : (readFifoCount s).2.ctx.state = .fifoRead := by rw [hd.ctx]; exact hs
  unfold fifoWork at h
  split at h <;> rename_i hc <;> rw [hc] at h1 hs1
  · cases h; exact h1
  · cases h; exact h1
  · rename_i s1
    have e : t = (flushStep s1).2 := (congrArg Prod.snd (Except.ok.inj h)).symm
    exact e ▸ h1.trans (flushStep_work hP now _ hs1)
  · exact h1.trans (fifoReadStep_work hP hs1 h)

theorem fifoStep_work {P : BusEvent → Prop} (hP : InFifoRead P) {now : Time} {seen : Bool} {s t : State} {b : Bool}
    (hs : s.ctx.state = .fifoRead) (h : fifoStep now seen s = .ok (b, t)) : DidWork P now s t := by
  unfold fifoStep at h
  split at h
  · have h0 : DidWork P now s (s.markStall now seen) := ((Did.refl P s).update (u := s.markStall now seen) rfl).work
      { Worked.refl s.cfg now s.ctx with
        tDrdy := by
          simp only [State.markStall_ctx]
          split
          · exact .inr rfl
          · exact .inl rfl
        counters := CountersKept.refl _ }
    exact h0.trans (fifoWork_work hP hs h)
  · cases h
    exact DidWork.refl P now s

theorem temperatureStep_work {P : BusEvent → Prop} (hP : InFifoRead P) (now : Time) (busErr : Bool) (s : State)
    (hs : s.ctx.state = .fifoRead) : DidWork P now s (temperatureStep now busErr s).2 := by
  have hw : DidWork P now s (temperatureUpdate now s).2 := by
    rcases temperatureUpdate_did (P := P) now s (fun a => hP _ (by simpa using hs)) (fun a => hP _ (by simpa using hs)) with
      ⟨h, _⟩ | ⟨raw, h, _⟩
    · exact h.work (Worked.refl _ _ _)
    · exact h.work { Worked.refl s.cfg now s.ctx with
        temperature := .inr ⟨raw, rfl, rfl, rfl⟩, counters := CountersKept.refl _ }
  unfold temperatureStep
  split
  · split <;> rename_i s1 h <;> rw [h] at hw <;> exact hw
  · exact DidWork.refl P now s

/-! ## The arms -/

/-- The bus-error accounting: without a bus error the streak is 0; with one it grows, and at the threshold is EnterReset (R157). -/
theorem accountBusError_ctx (s : State) (b : Bool) :
    (b = false ∧ (s.accountBusError b).ctx = { s.ctx with busErrorStreak := 0 }) ∨
      (b = true ∧ s.ctx.busErrorStreak + 1 < s.cfg.busErrorResetThreshold ∧
        (s.accountBusError b).ctx = { s.ctx with busErrorStreak := s.ctx.busErrorStreak + 1 }) ∨
      (b = true ∧ s.cfg.busErrorResetThreshold ≤ s.ctx.busErrorStreak + 1 ∧
        (s.accountBusError b).ctx = s.enterReset.ctx) := by
  unfold State.accountBusError
  split
  · split
    · rename_i hb h
      exact .inr (.inr ⟨hb, h, by simp⟩)
    · rename_i hb h
      exact .inr (.inl ⟨hb, by omega, rfl⟩)
  · rename_i hb
    exact .inl ⟨by simpa using hb, rfl⟩

/-- The accounting issues no transaction. -/
@[simp] theorem accountBusError_out (s : State) (b : Bool) : (s.accountBusError b).out = s.out := by
  unfold State.accountBusError
  split
  · split <;> rfl
  · rfl

theorem accountBusError_did {P : BusEvent → Prop} (s : State) (b : Bool) :
    Did P s (s.accountBusError b).ctx (s.accountBusError b) := by
  unfold State.accountBusError
  split
  · split
    · exact (Did.refl P s).update rfl
    · exact (Did.refl P s).update rfl
  · exact (Did.refl P s).update rfl

/-- What a FIFO_READ tick can do: a mismatch that moves it to CONFIGURE, or work and the bus-error accounting (R151). -/
theorem armFifoRead_inv {P : BusEvent → Prop} (hP : InFifoRead P) {now : Time} {seen : Bool} {s t : State}
    (hs : s.ctx.state = .fifoRead) (h : armFifoRead now seen s = .ok t) :
    (∃ u, DidWork P now s u ∧ u.ctx.cntBadRegister = satInc s.ctx.cntBadRegister ∧ t = u.reconfigure ∧
        (checkStep now s).1 = .mismatch ∧ BusRun s u false) ∨
      ∃ u b, DidWork P now s u ∧ t = u.accountBusError b ∧ BusRun s u b := by
  have hc := checkStep_work hP now s hs
  have hst : ∀ {u}, DidWork P now s u → u.ctx.state = .fifoRead := fun hu => hu.2.state.trans hs
  have hb := checkStep_run now s
  unfold armFifoRead at h
  split at h
  · rename_i s1 hm
    have e : s1 = (checkStep now s).2 := by rw [hm]
    cases h
    refine .inl ⟨s1, e ▸ hc, ?_, rfl, by rw [hm], by rw [hm] at hb; exact hb⟩
    unfold checkStep at hm
    split at hm
    · rw [registerCheck_eq] at hm
      split at hm
      · cases hm
      · split at hm
        · cases hm
        · cases hm
          simp
    · cases hm
  · rename_i s1 hm
    have e : s1 = (checkStep now s).2 := by rw [hm]
    cases h
    rw [← e] at hc
    rw [hm] at hb
    exact .inr ⟨_, _, hc.trans (temperatureStep_work hP now true s1 (hst hc)), rfl, temperatureStep_run hb⟩
  · rename_i s1 hm
    have e : s1 = (checkStep now s).2 := by rw [hm]
    rw [← e] at hc
    split at h
    · cases h
    · rename_i b s2 hf
      cases h
      have h2 := hc.trans (fifoStep_work hP (hst hc) hf)
      rw [hm] at hb
      exact .inr ⟨_, _, h2.trans (temperatureStep_work hP now b s2 (hst h2)), rfl,
        temperatureStep_run (hb.trans (fifoStep_run hf))⟩

/-- What a RESET tick can do (R146). -/
theorem armReset_did {P : BusEvent → Prop} (now : Time) (s : State)
    (hP : ∀ a, P (busEvent (.write s.cfg.regCmdSoftreset s.cfg.valSoftreset) a s.ctx.state)) :
    Did P s s.ctx (armReset now s) ∨
      ((softReset s).1 = .ok ∧ Did P s { s.ctx with tReset := some now, state := .waitForReset } (armReset now s)) := by
  have hd := softReset_did (P := P) s hP
  unfold armReset
  split
  · rename_i s1 h
    rw [h] at hd
    exact .inl hd
  · rename_i s1 h
    rw [h] at hd
    have hc : s1.ctx = s.ctx := hd.ctx
    exact .inr ⟨by rw [h], hd.update (by rw [hc])⟩

/-- The probe keeps the context (R148). -/
theorem resetSettled_did {P : BusEvent → Prop} (s : State)
    (hP : s.cfg.resetProbeMask ≠ 0x00#8 → ∀ a, P (busEvent (.read s.cfg.resetProbeReg) a s.ctx.state)) :
    Did P s s.ctx (resetSettled s).2 := by
  unfold resetSettled
  split
  · exact Did.refl P s
  · rename_i hm
    have hd := readRegister_did P s.cfg.resetProbeReg s (hP hm)
    split <;> rename_i h <;> rw [h] at hd <;> exact hd

/-- ResetSettled from the probe's answer (R148). -/
theorem resetSettled_eq (s : State) : resetSettled s =
    (s.cfg.resetProbeMask == 0x00#8 || (!(s.answer (.read s.cfg.resetProbeReg)).error &&
        ((s.answer (.read s.cfg.resetProbeReg)).byte &&& s.cfg.resetProbeMask == s.cfg.resetProbeValue)),
      if s.cfg.resetProbeMask = 0x00#8 then s else s.transact (.read s.cfg.resetProbeReg)) := by
  unfold resetSettled readRegister BusAnswer.readByte
  by_cases hm : s.cfg.resetProbeMask = 0x00#8
  · simp [hm]
  · cases h : (s.answer (.read s.cfg.resetProbeReg)).error <;> simp [hm]

/-- The WAIT_FOR_RESET arm from the outcome and the state of the probe (R147). -/
theorem armWait_eq (now : Time) (s : State) : armWait now s =
    if elapsedOpt now s.ctx.tReset < s.cfg.settleMinUs then s
    else if (resetSettled s).1 then { (resetSettled s).2 with ctx.state := .configure, ctx.configFailStreak := 0 }
    else if s.cfg.resetMaxWaitUs < elapsedOpt now s.ctx.tReset then (resetSettled s).2.fatal
    else (resetSettled s).2 := by
  have hd := resetSettled_did (P := fun _ => True) s fun _ _ => trivial
  unfold armWait
  split
  · rfl
  · split <;> rename_i h <;> rw [h] at hd ⊢
    · rfl
    · simp only [Bool.false_eq_true, if_false]
      rw [show _ = s.cfg from hd.cfg, show _ = s.ctx from hd.ctx]

/-- What a WAIT_FOR_RESET tick can do (R147). -/
theorem armWait_did {P : BusEvent → Prop} (now : Time) (s : State)
    (hP : s.cfg.resetProbeMask ≠ 0x00#8 → ∀ a, P (busEvent (.read s.cfg.resetProbeReg) a s.ctx.state)) :
    Did P s s.ctx (armWait now s) ∨
      (s.cfg.settleMinUs ≤ elapsedOpt now s.ctx.tReset ∧ (resetSettled s).1 = true ∧
        Did P s { s.ctx with state := .configure, configFailStreak := 0 } (armWait now s)) ∨
      (s.cfg.resetMaxWaitUs < elapsedOpt now s.ctx.tReset ∧ (resetSettled s).1 = false ∧
        Did P s s.fatal.ctx (armWait now s)) := by
  have hd := resetSettled_did (P := P) s hP
  unfold armWait
  split
  · exact .inl (Did.refl P s)
  · rename_i he
    split
    · rename_i s1 h
      rw [h] at hd
      have hc : s1.ctx = s.ctx := hd.ctx
      exact .inr (.inl ⟨by omega, by rw [h], hd.update (by rw [hc])⟩)
    · rename_i s1 h
      rw [h] at hd
      have hc : s1.ctx = s.ctx := hd.ctx
      have hg : s1.cfg = s.cfg := hd.cfg
      rw [hc, hg]
      split
      · rename_i hw
        exact .inr (.inr ⟨hw, by rw [h], hd.update (by simp [hc])⟩)
      · exact .inl hd

/-- A failed attempt: the streak grows, or the block resets at the ceiling (R149). -/
theorem configFailed_did {P : BusEvent → Prop} (s : State) :
    (s.ctx.configFailStreak + 1 < s.cfg.configAttemptMax ∧
        Did P s { s.ctx with configFailStreak := s.ctx.configFailStreak + 1 } s.configFailed) ∨
      (s.cfg.configAttemptMax ≤ s.ctx.configFailStreak + 1 ∧ Did P s s.enterReset.ctx s.configFailed) := by
  unfold State.configFailed
  split
  · rename_i h
    exact .inr ⟨h, (Did.refl P s).update rfl⟩
  · exact .inl ⟨by omega, (Did.refl P s).update rfl⟩

/-- What a CONFIGURE tick can do (R149, R150); `n` is the bad-register counter after Configure. -/
theorem armConfigure_did {P : BusEvent → Prop} (now : Time) (s : State)
    (hP : ConfigEvents P s.cfg.table s.ctx.state) :
    ∃ n, s.ctx.cntBadRegister ≤ n ∧
      ((configure s).1 = .success ∧
          Did P s { s.ctx with cntBadRegister := n, state := .fifoRead, configFailStreak := 0,
                               drdyEnabled := s.cfg.drdyAvailable, tDrdy := some now, busErrorStreak := 0,
                               badframeStreak := 0 } (armConfigure now s) ∨
        (s.ctx.configFailStreak + 1 < s.cfg.configAttemptMax ∧
          Did P s { s.ctx with cntBadRegister := n, configFailStreak := s.ctx.configFailStreak + 1 } (armConfigure now s)) ∨
        ((configure s).1 ≠ .success ∧ s.cfg.configAttemptMax ≤ s.ctx.configFailStreak + 1 ∧
          Did P s { s.enterReset.ctx with cntBadRegister := n } (armConfigure now s))) := by
  obtain ⟨n, hn, hd⟩ := configure_did (P := P) s hP
  refine ⟨n, hn, ?_⟩
  have failed : ∀ s1, (configure s).2 = s1 →
      (s.ctx.configFailStreak + 1 < s.cfg.configAttemptMax ∧
          Did P s { s.ctx with cntBadRegister := n, configFailStreak := s.ctx.configFailStreak + 1 } s1.configFailed) ∨
        (s.cfg.configAttemptMax ≤ s.ctx.configFailStreak + 1 ∧
          Did P s { s.enterReset.ctx with cntBadRegister := n } s1.configFailed) := by
    rintro s1 rfl
    have h := configFailed_did (P := P) (configure s).2
    have hc := hd.ctx
    simp only [State.enterReset_ctx, hc, hd.cfg] at h ⊢
    rcases h with ⟨h1, h2⟩ | ⟨h1, h2⟩
    · exact .inl ⟨h1, hd.trans h2⟩
    · exact .inr ⟨h1, hd.trans h2⟩
  unfold armConfigure
  split
  · rename_i s1 h
    rw [h] at hd
    have hc := hd.ctx
    have hg : s1.cfg = s.cfg := hd.cfg
    refine .inl ⟨by rw [h], hd.update ?_⟩
    simp only [State.enterFifoRead_ctx]
    rw [show s1.ctx = _ from hc, hg]
  · rename_i s1 h
    exact .inr ((failed s1 (by rw [h])).imp_right fun hf => ⟨by rw [h]; simp, hf⟩)
  · rename_i s1 h
    exact .inr ((failed s1 (by rw [h])).imp_right fun hf => ⟨by rw [h]; simp, hf⟩)

/-! ## The tick -/

/-- A tick that answers a next state ran its arm, at a clock that runs (R141, R143). -/
theorem runTick_inv {s t : State} (h : runTick s = .ok t) :
    clockRuns s = true ∧ runArm s.clockValue (drdyPending s) (prologue s) = .ok t := by
  unfold runTick at h
  split at h
  · cases h
  · rename_i now s1 hd
    obtain ⟨hc, hn, hs⟩ := drawNow_inv hd
    subst hn hs
    exact ⟨hc, h⟩

/-- A requested tick at a clock that runs is its arm (R141). -/
theorem execTick_eq {s : State} (hr : s.shared.tickRequested = true) (hc : clockRuns s = true) :
    execTick s = taskResult (runArm s.clockValue (drdyPending s) (prologue s)) := by
  have hd : drawNow { s with shared.tickRequested := false } =
      .ok (s.clockValue, { s with shared.tickRequested := false }.timed) := drawNow_ok hc
  simp only [execTick, hr, if_true, runTick, hd]
  rfl

/-- The only ways a tick answers a next state: no request and nothing changed, or a run arm (R139, R141). -/
theorem execTick_inv {s t : State} (h : execTick s = .next t) :
    s.shared.tickRequested = false ∧ t = s ∨
      s.shared.tickRequested = true ∧ clockRuns s = true ∧
        runArm s.clockValue (drdyPending s) (prologue s) = .ok t := by
  unfold execTick at h
  split at h
  · rename_i hr
    unfold taskResult at h
    split at h
    · rename_i u hu
      cases h
      exact .inr ⟨hr, runTick_inv hu⟩
    · cases h
  · rename_i hr
    cases h
    exact .inl ⟨by simpa using hr, rfl⟩

@[simp] theorem prologue_cfg (s : State) : (prologue s).cfg = s.cfg := rfl
@[simp] theorem prologue_out (s : State) : (prologue s).out = s.out := rfl
@[simp] theorem prologue_faults (s : State) : (prologue s).faults = s.faults := rfl
@[simp] theorem prologue_env (s : State) : (prologue s).env = s.env.clocked := rfl
@[simp] theorem prologue_shared (s : State) : (prologue s).shared = { pending := 0#32, tickRequested := false } := rfl

/-- The context after the prologue (R141, R142). -/
theorem prologue_ctx (s : State) :
    (prologue s).ctx =
      if drdyPending s then { s.ctx with tLastTick := some s.clockValue }.noteDrdy s.clockValue
      else { s.ctx with tLastTick := some s.clockValue } := rfl

@[simp] theorem prologue_state (s : State) : (prologue s).ctx.state = s.ctx.state := by
  rw [prologue_ctx]; split <;> rfl

/-- The context after the prologue of a tick that consumed no event (R142). -/
theorem prologue_ctx_quiet {s : State} (h : s.shared.pending = 0#32) :
    (prologue s).ctx = { s.ctx with tLastTick := some s.clockValue } := by
  rw [prologue_ctx, if_neg (by simp [drdyPending, h])]

/-- The prologue changes no answer of the transport. -/
@[simp] theorem prologue_answer (s : State) (r : BusRequest) : (prologue s).answer r = s.answer r := s.timed_answer r

/-- The prologue writes the time of the tick and, where an event was consumed, the data-ready time and interval; every other
field of the context is kept (R141, R142). -/
theorem prologue_ctx_eq (s : State) :
    (prologue s).ctx = { s.ctx with
      tLastTick := some s.clockValue
      tDrdy := (prologue s).ctx.tDrdy
      drdyIntervalLast := (prologue s).ctx.drdyIntervalLast } := by
  rw [prologue_ctx]; split <;> rfl

/-- The register check of a tick finds the answer of the state the tick started in. -/
@[simp] theorem State.noteCfgCheck_answer (s : State) (now : Time) (r : BusRequest) : (s.noteCfgCheck now).answer r = s.answer r := rfl

/-! ## The arm as a run -/

/-- Whichever arm a tick runs, it is a run from the prologue: its events satisfy `P` if those of each arm do, every batch it
emits is one the consumer may see, and it keeps the parameters, the fault set and the diagnostics (R143). -/
theorem runArm_did {P : BusEvent → Prop} {s t : State}
    (h : runArm s.clockValue (drdyPending s) (prologue s) = .ok t)
    (hr : s.ctx.state = .reset → ∀ a, P (busEvent (.write s.cfg.regCmdSoftreset s.cfg.valSoftreset) a .reset))
    (hw : s.ctx.state = .waitForReset → s.cfg.resetProbeMask ≠ 0x00#8 →
      ∀ a, P (busEvent (.read s.cfg.resetProbeReg) a .waitForReset))
    (hc : s.ctx.state = .configure → ConfigEvents P s.cfg.table .configure) (hf : InFifoRead P) :
    ∃ c, Did P (prologue s) c t := by
  have hst := prologue_state s
  unfold runArm at h
  rw [hst] at h
  split at h <;> rename_i hs
  · cases h
    rcases armReset_did (P := P) s.clockValue (prologue s) (fun a => by rw [hst, hs]; exact hr hs a) with hd | ⟨_, hd⟩ <;>
      exact ⟨_, hd⟩
  · cases h
    rcases armWait_did (P := P) s.clockValue (prologue s) (fun hm a => by rw [hst, hs]; exact hw hs hm a) with
      hd | ⟨_, _, hd⟩ | ⟨_, _, hd⟩ <;> exact ⟨_, hd⟩
  · cases h
    obtain ⟨n, _, ⟨_, hd⟩ | ⟨_, hd⟩ | ⟨_, _, hd⟩⟩ :=
      armConfigure_did (P := P) s.clockValue (prologue s) (by rw [hst, hs]; exact hc hs) <;> exact ⟨_, hd⟩
  · rcases armFifoRead_inv hf (hst.trans hs) h with ⟨u, hu, _, rfl, _⟩ | ⟨u, b, hu, rfl, _⟩
    · exact ⟨_, hu.1.update rfl⟩
    · exact ⟨_, hu.1.trans (accountBusError_did u b)⟩
  · cases h
    exact ⟨_, (Did.refl P (prologue s)).update rfl⟩
  · cases h
    exact ⟨_, Did.refl P (prologue s)⟩

/-- The only faults of a tick's arm: those of FifoRead, raised in a state with no other new fault (R178). -/
theorem runArm_error {s : State} {f : Fault} (h : runArm s.clockValue (drdyPending s) (prologue s) = .error f) :
    ∃ (u : State) (n : Nat), u.faults = s.faults ∧
      (f = .scratchOverflow (blockLength n) (u.raise .scratchOverflow) ∨
        f = .timestampUnderflow s.clockValue n s.cfg.sampleIntervalUs (u.raise .timestampUnderflow)) := by
  have all : InFifoRead fun _ => True := fun _ _ => trivial
  have hst := prologue_state s
  unfold runArm at h
  rw [hst] at h
  split at h <;> rename_i hs
  · cases h
  · cases h
  · cases h
  · have hp : (prologue s).ctx.state = .fifoRead := hst.trans hs
    have hc := checkStep_work all s.clockValue (prologue s) hp
    unfold armFifoRead at h
    split at h
    · cases h
    · cases h
    · rename_i s1 hm
      rw [hm] at hc
      split at h
      · rename_i f' hf
        cases h
        unfold fifoStep at hf
        split at hf
        · unfold fifoWork at hf
          obtain ⟨_, _, _, _, hr⟩ := readFifoCount_did (P := fun _ => True) (s1.markStall s.clockValue (drdyPending s))
            (fun _ => trivial) fun _ => trivial
          split at hf
          · cases hf
          · cases hf
          · cases hf
          · rename_i n u hcnt
            rw [hcnt] at hr
            unfold fifoReadStep at hf
            split at hf
            · rename_i hfr
              cases hf
              obtain ⟨v, hv, hv'⟩ := fifoRead_error hfr
              have e1 : u.cfg = s.cfg := hr.cfg.trans hc.1.cfg
              exact ⟨v, n, hv.trans (hr.faults.trans hc.1.faults), e1 ▸ hv'⟩
            all_goals cases hf
        · cases hf
      · cases h
  · cases h
  · cases h

/-! ## The steps of a FIFO_READ tick, seen from the state it starts in -/

/-- A register check that is not due, or finds a match, writes at most its time and the cursor, and issues at most its one read
(R122, R151, R152). -/
theorem checkStep_matched {now : Time} {s : State} (h : (checkStep now s).1 = .matched) :
    (checkStep now s).2.cfg = s.cfg ∧
      (checkStep now s).2.ctx = (if due s.cfg.cfgCheckIntervalUs now s.ctx.tCfgCheck then
        { s.ctx with tCfgCheck := some now, cursor := (s.ctx.cursor + 1) % s.cfg.table.length } else s.ctx) ∧
      requests (checkStep now s).2.out.busLog = requests s.out.busLog ++
        (if due s.cfg.cfgCheckIntervalUs now s.ctx.tCfgCheck then
          [(.readRegister, (tableEntry s.cfg.table s.ctx.cursor).reg)] else []) := by
  unfold checkStep at h ⊢
  split
  · rename_i hd
    rw [if_pos hd] at h
    rw [registerCheck_eq] at h ⊢
    split <;> rename_i hr <;> rw [hr] at h
    · cases h
    · split <;> rename_i hs
      · simp [requests, State.noteCfgCheck]
      · dsimp only at h
        rw [if_neg hs] at h
        cases h
  · simp

/-- FIFO work writes no temperature time (R41, R134, R151). -/
theorem fifoWork_tTemp {now : Time} {s t : State} {b : Bool} (h : fifoWork now s = .ok (b, t)) :
    t.cfg = s.cfg ∧ t.ctx.tTemp = s.ctx.tTemp := by
  have flush : ∀ u, (flushStep u).2.cfg = u.cfg ∧ (flushStep u).2.ctx.tTemp = u.ctx.tTemp := by
    intro u
    obtain ⟨_, _, _, hd⟩ := fifoReset_did (P := fun _ => True) u fun _ => trivial
    unfold flushStep
    split <;> rename_i hf <;> rw [hf] at hd <;> exact ⟨hd.cfg, by rw [show _ = _ from hd.ctx]⟩
  have bad : ∀ u, (badBatchStep u).2.cfg = u.cfg ∧ (badBatchStep u).2.ctx.tTemp = u.ctx.tTemp := by
    intro u
    unfold badBatchStep
    split
    · exact flush _
    · exact ⟨rfl, rfl⟩
  have read : ∀ {n u r v}, fifoRead now n u = .ok (r, v) → v.cfg = u.cfg ∧ v.ctx.tTemp = u.ctx.tTemp := by
    intro n u r v hf
    obtain ⟨_, _, hd⟩ := fifoRead_did (P := fun _ => True) hf fun _ => trivial
    exact ⟨hd.cfg, by rw [hd.ctx]⟩
  obtain ⟨_, _, _, _, hc⟩ := readFifoCount_did (P := fun _ => True) s (fun _ => trivial) fun _ => trivial
  have h0 : (readFifoCount s).2.cfg = s.cfg ∧ (readFifoCount s).2.ctx.tTemp = s.ctx.tTemp := ⟨hc.cfg, by rw [hc.ctx]⟩
  unfold fifoWork at h
  split at h <;> rename_i u hr <;> rw [hr] at h0
  · cases h
    exact h0
  · cases h
    exact h0
  · have hf := flush u
    rw [Except.ok.inj h] at hf
    exact ⟨hf.1.trans h0.1, hf.2.trans h0.2⟩
  · unfold fifoReadStep at h
    split at h <;> rename_i hf
    · cases h
    · cases h
      exact ⟨(read hf).1.trans h0.1, (read hf).2.trans h0.2⟩
    · cases h
      exact ⟨(read hf).1.trans h0.1, (read hf).2.trans h0.2⟩
    all_goals
      rename_i v
      have hb := bad v
      rw [Except.ok.inj h] at hb
      exact ⟨hb.1.trans ((read hf).1.trans h0.1), hb.2.trans ((read hf).2.trans h0.2)⟩

/-- Step 2 after a register check that found nothing wrong, seen from the state the tick starts in (R154). -/
theorem fifoStep_eq {s : State} (h : (checkStep s.clockValue (prologue s)).1 = .matched) :
    fifoStep s.clockValue (drdyPending s) (afterCheck s) = afterWork s := by
  obtain ⟨hg, hc, -⟩ := checkStep_matched h
  have e1 : (afterCheck s).ctx.drdyEnabled = s.ctx.drdyEnabled := by
    rw [afterCheck, hc, prologue_ctx_eq]
    split <;> rfl
  have e2 : (afterCheck s).cfg = s.cfg := hg
  have e3 : (afterCheck s).ctx.tDrdy = (prologue s).ctx.tDrdy := by
    rw [afterCheck, hc]
    split <;> rfl
  have e4 : (s.shared.pending != 0#32) = drdyPending s := by
    by_cases hp : s.shared.pending = 0#32
    · simp [drdyPending, hp]
    · have : 0 < s.shared.pending.toNat := Nat.pos_of_ne_zero fun h => hp (BitVec.eq_of_toNat_eq h)
      simp [drdyPending, hp, this]
  have es : stalled s.clockValue (drdyPending s) (afterCheck s) = stallAt s := by
    unfold stalled stallAt
    by_cases hp : s.shared.pending = 0#32
    · rw [e1, e2, e3, prologue_ctx_quiet hp]
      simp only [drdyPending, hp]
      rfl
    · have hd : drdyPending s = true := by rw [← e4]; simpa using hp
      simp [hd, hp]
  have ew : fifoWorkDue s.clockValue (drdyPending s) (afterCheck s) = fifoWorkAt s := by
    rw [fifoWorkDue, fifoWorkAt, es, e1, e4]
  unfold fifoStep afterWork workStart State.markStall
  rw [ew, es]

/-- A FIFO_READ tick is its arm, in terms of the state after the check (R151). -/
theorem armFifoRead_matched {s : State} (h : (checkStep s.clockValue (prologue s)).1 = .matched) :
    armFifoRead s.clockValue (drdyPending s) (prologue s) =
      (afterWork s).map fun r => finishFifoRead s.clockValue r.1 r.2 := by
  have hs := fifoStep_eq h
  unfold afterCheck at hs
  unfold armFifoRead
  split <;> rename_i hk <;> rw [hk] at h hs
  · cases h
  · cases h
  · rw [hs]
    cases afterWork s <;> rfl

end Sys2Proof.Machine
end

