-- ==== Sys2Proof/Laws/Exec.lean ====
section
/-!
SUPPORT. What `exec` does with each operation, as an equation: the operation issued on its own, the tick, or the update of the
state. Provers rewrite with these instead of unfolding the dispatcher.
-/

namespace Sys2Proof.Machine

theorem exec_readRegister (addr : Byte) (s : State) : exec (.readRegister addr) s =
    issueAlone (fun _ s =>
      .ok (.readRegister ((s.answer (.read addr)).result (.read addr)), s.transact (.read addr))) s := rfl

theorem exec_writeRegister (addr value : Byte) (s : State) : exec (.writeRegister addr value) s =
    issueAlone (fun _ s =>
      .ok (.writeRegister ((s.answer (.write addr value)).result (.write addr value)), s.transact (.write addr value))) s :=
  rfl

theorem exec_bulkTransfer (cmd : Byte) (length : Half) (s : State) : exec (.bulkTransfer cmd length) s =
    issueAlone (fun _ s =>
      match bulkTransfer cmd length.toNat s with
      | .error f => .error f
      | .ok (bytes, s1) => .ok (.bulkTransfer (bulkResult bytes), s1)) s := rfl

theorem exec_configure (s : State) : exec .configure s =
    issueAlone (fun _ s => .ok (.configure (configure s).1, (configure s).2)) s := rfl

theorem exec_registerCheck (s : State) : exec .registerCheck s =
    issueAlone (fun _ s => .ok (.registerCheck (registerCheck s).1, (registerCheck s).2)) s := rfl

theorem exec_readFifoCount (s : State) : exec .readFifoCount s =
    issueAlone (fun _ s => .ok (.readFifoCount (readFifoCount s).1, (readFifoCount s).2)) s := rfl

theorem exec_fifoRead (count : Half) (s : State) : exec (.fifoRead count) s =
    issueAlone (fun now s =>
      match fifoRead now count.toNat s with
      | .error f => .error f
      | .ok (r, s1) => .ok (.fifoRead r, s1)) s := rfl

theorem exec_fifoReset (s : State) : exec .fifoReset s =
    issueAlone (fun _ s => .ok (.fifoReset (fifoReset s).1, (fifoReset s).2)) s := rfl

theorem exec_temperatureUpdate (s : State) : exec .temperatureUpdate s =
    issueAlone (fun now s =>
      .ok (.temperatureUpdate (temperatureUpdate now s).1, (temperatureUpdate now s).2)) s := rfl

theorem exec_softReset (s : State) : exec .softReset s =
    issueAlone (fun _ s => .ok (.softReset (softReset s).1, (softReset s).2)) s := rfl

theorem exec_tick (s : State) : exec .tick s = if s.shared.tickRequested then taskResult (runTick s) else .next s := rfl

/-- A requested TICK at a clock that runs is its arm (R141). -/
theorem exec_tick_eq {s : State} (hr : s.shared.tickRequested = true) (hc : clockRuns s = true) :
    exec .tick s = taskResult (runArm s.clockValue (drdyPending s) (prologue s)) := execTick_eq hr hc

/-- The only ways TICK answers a next state (R139, R141). -/
theorem exec_tick_inv {s t : State} (h : exec .tick s = .next t) :
    s.shared.tickRequested = false ∧ t = s ∨
      s.shared.tickRequested = true ∧ clockRuns s = true ∧
        runArm s.clockValue (drdyPending s) (prologue s) = .ok t := execTick_inv h

theorem exec_drdySignal (s : State) : exec .drdySignal s = .next s.drdySignal := rfl
theorem exec_timerExpire (s : State) : exec .timerExpire s = .next s.timerExpire := rfl

theorem exec_cmdStart (s : State) : exec .cmdStart s =
    if s.ctx.state = .stopped then .next s.enterReset.restarted else .next s := rfl

theorem exec_cmdStop (s : State) : exec .cmdStop s =
    if s.ctx.state = .stopped then .next s
    else .next { s with ctx.state := .requestStop, shared.tickRequested := true } := rfl

theorem exec_cmdReset (s : State) : exec .cmdReset s = .next s.enterReset.clearCounters.restarted := rfl

theorem exec_cmdPrintDiagnostics (s : State) : exec .cmdPrintDiagnostics s =
    .next { s with out.diagnostics := s.out.diagnostics ++ [s.ctx.snapshot] } := rfl

/-- A class I or X operation is an operation issued on its own (R86). -/
theorem exec_alone {i : Instr} (h : classOf i ≠ .boundary) : ∃ op, ∀ s, exec i s = issueAlone op s := by
  cases i with
  | readRegister addr => exact ⟨_, exec_readRegister addr⟩
  | writeRegister addr value => exact ⟨_, exec_writeRegister addr value⟩
  | bulkTransfer cmd length => exact ⟨_, exec_bulkTransfer cmd length⟩
  | configure => exact ⟨_, exec_configure⟩
  | registerCheck => exact ⟨_, exec_registerCheck⟩
  | readFifoCount => exact ⟨_, exec_readFifoCount⟩
  | fifoRead count => exact ⟨_, exec_fifoRead count⟩
  | fifoReset => exact ⟨_, exec_fifoReset⟩
  | temperatureUpdate => exact ⟨_, exec_temperatureUpdate⟩
  | softReset => exact ⟨_, exec_softReset⟩
  | tick => exact absurd rfl h
  | drdySignal => exact absurd rfl h
  | timerExpire => exact absurd rfl h
  | cmdStart => exact absurd rfl h
  | cmdStop => exact absurd rfl h
  | cmdReset => exact absurd rfl h
  | cmdPrintDiagnostics => exact absurd rfl h

/-! ## What an operation issued on its own can do -/

/-- What a class I or X operation can do: it runs in HARNESS_MODE at a clock that runs, from the state with the time drawn; its
events have the state's acquisition state; of the context it may write what the work of a FIFO_READ tick may (R24, R86). -/
theorem exec_alone_inv {P : BusEvent → Prop} {i : Instr} {s t : State} (hi : classOf i ≠ .boundary)
    (h : exec i s = .next t) (hP : ∀ r a, P (busEvent r a s.ctx.state)) :
    s.cfg.harnessMode = true ∧ clockRuns s = true ∧
      ∃ r u c, t = u.record r ∧ Did P s.timed c u ∧ Worked s.cfg s.clockValue s.timed.ctx c := by
  have w : Worked s.cfg s.clockValue s.timed.ctx s.timed.ctx := Worked.refl _ _ _
  have le := fun c : Counter => BitVec.le_refl c
  cases i with
  | tick => exact absurd rfl hi
  | drdySignal => exact absurd rfl hi
  | timerExpire => exact absurd rfl hi
  | cmdStart => exact absurd rfl hi
  | cmdStop => exact absurd rfl hi
  | cmdReset => exact absurd rfl hi
  | cmdPrintDiagnostics => exact absurd rfl hi
  | readRegister addr =>
    rw [exec_readRegister] at h
    obtain ⟨hm, hc, r, u, hu, rfl⟩ := issueAlone_inv h
    cases hu
    exact ⟨hm, hc, _, _, _, rfl, transact_did P s.timed _ (hP _ _), w⟩
  | writeRegister addr value =>
    rw [exec_writeRegister] at h
    obtain ⟨hm, hc, r, u, hu, rfl⟩ := issueAlone_inv h
    cases hu
    exact ⟨hm, hc, _, _, _, rfl, transact_did P s.timed _ (hP _ _), w⟩
  | bulkTransfer cmd length =>
    rw [exec_bulkTransfer] at h
    obtain ⟨hm, hc, r, u, hu, rfl⟩ := issueAlone_inv h
    split at hu
    · cases hu
    · rename_i hb
      cases hu
      exact ⟨hm, hc, _, _, _, rfl, (bulkTransfer_did hb fun a => hP _ a).1, w⟩
  | configure =>
    rw [exec_configure] at h
    obtain ⟨hm, hc, r, u, hu, rfl⟩ := issueAlone_inv h
    cases hu
    obtain ⟨n, hn, hd⟩ := configure_did (P := P) s.timed fun e _ a => ⟨hP _ a, fun v => hP _ a⟩
    exact ⟨hm, hc, _, _, _, rfl, hd, { w with counters := ⟨hn, le _, le _, le _, le _⟩ }⟩
  | registerCheck =>
    rw [exec_registerCheck] at h
    obtain ⟨hm, hc, r, u, hu, rfl⟩ := issueAlone_inv h
    cases hu
    obtain ⟨n, hn, hd⟩ := registerCheck_did (P := P) s.timed fun a => hP _ a
    exact ⟨hm, hc, _, _, _, rfl, hd, { w with
      cursor := fun h => Nat.mod_lt _ (Nat.lt_of_le_of_lt (Nat.zero_le _) h)
      counters := ⟨hn, le _, le _, le _, le _⟩ }⟩
  | readFifoCount =>
    rw [exec_readFifoCount] at h
    obtain ⟨hm, hc, r, u, hu, rfl⟩ := issueAlone_inv h
    cases hu
    obtain ⟨n, m, hn, hm', hd⟩ := readFifoCount_did (P := P) s.timed (fun a => hP _ a) fun a => hP _ a
    exact ⟨hm, hc, _, _, _, rfl, hd, { w with counters := ⟨le _, le _, hn, hm', le _⟩ }⟩
  | fifoRead count =>
    rw [exec_fifoRead] at h
    obtain ⟨hm, hc, r, u, hu, rfl⟩ := issueAlone_inv h
    split at hu
    · cases hu
    · rename_i hf
      cases hu
      obtain ⟨n, hn, hd⟩ := fifoRead_did (P := P) hf fun a => hP _ a
      exact ⟨hm, hc, _, _, _, rfl, hd, { w with counters := ⟨le _, hn, le _, le _, le _⟩ }⟩
  | fifoReset =>
    rw [exec_fifoReset] at h
    obtain ⟨hm, hc, r, u, hu, rfl⟩ := issueAlone_inv h
    cases hu
    obtain ⟨b, n, hn, hd⟩ := fifoReset_did (P := P) s.timed fun a => hP _ a
    exact ⟨hm, hc, _, _, _, rfl, hd, { w with counters := ⟨le _, le _, le _, le _, hn⟩ }⟩
  | temperatureUpdate =>
    rw [exec_temperatureUpdate] at h
    obtain ⟨hm, hc, r, u, hu, rfl⟩ := issueAlone_inv h
    cases hu
    rcases temperatureUpdate_did (P := P) s.clockValue s.timed (fun a => hP _ a) (fun a => hP _ a) with
      ⟨hd, _⟩ | ⟨raw, hd, _⟩
    · exact ⟨hm, hc, _, _, _, rfl, hd, w⟩
    · exact ⟨hm, hc, _, _, _, rfl, hd, { w with
        temperature := .inr ⟨raw, rfl, rfl, rfl⟩, counters := CountersKept.refl _ }⟩
  | softReset =>
    rw [exec_softReset] at h
    obtain ⟨hm, hc, r, u, hu, rfl⟩ := issueAlone_inv h
    cases hu
    exact ⟨hm, hc, _, _, _, rfl, softReset_did (P := P) s.timed fun a => hP _ a, w⟩

/-! ## The step -/

/-- The next operation runs in the state with another environment. -/
theorem nextOperation_env (s : State) : ∃ e, (nextOperation s).2 = { s with env := e } := by
  unfold nextOperation
  split <;> exact ⟨_, rfl⟩

/-- The only way a step answers a next state: no fault has been raised, the parameters are well-formed, and one operation runs
in the state with another environment. -/
theorem step_inv {s t : State} (h : step s = .next t) :
    s.faults = [] ∧ s.cfg.wf = true ∧ ∃ i e, exec i { s with env := e } = .next t := by
  unfold step at h
  split at h
  · cases h
  · rename_i hf
    split at h
    · cases h
    · rename_i hw
      refine ⟨hf, by simpa [Params.wf, Params.firstFailing] using hw, ?_⟩
      obtain ⟨e, he⟩ := nextOperation_env s
      split at h
      · cases h
      · rename_i i s1 hn
        rw [hn] at he
        exact ⟨i, e, he ▸ h⟩

end Sys2Proof.Machine
end

