-- ==== Sys2Proof/Laws/PerInstr.lean ====
section
/-!
SUPPORT. One statement for every operation: its word carries its opcode and its operands in their fields (R82 to R84).
-/

namespace Sys2Proof

/-- The word of an operation carries the operation's opcode, which is one of the map of R84, and its operands, and the row's
class is the one its opcode names: X below 0x10, B for the tick, the events and the commands, I otherwise. -/
def Laws.OpcodeField.Statement (i : Instr) : Prop :=
  opcodeField (encode i) = opcodeOf i ∧ aField (encode i) = aOf i ∧ bField (encode i) = bOf i ∧
    (opcodeOf i).toNat ∈ Machine.knownOpcodes ∧
    (classOf i = .bus ↔ (opcodeOf i).toNat < 0x10) ∧
    (classOf i = .boundary ↔ (opcodeOf i).toNat = 0x30 ∨ 0x40 ≤ (opcodeOf i).toNat)

theorem Laws.OpcodeField.readRegister (addr : Byte) : Laws.OpcodeField.Statement (.readRegister addr) :=
  ⟨opcodeField_encode _, aField_encode _, bField_encode _, by simp [opcodeOf, Machine.knownOpcodes],
    by simp [classOf, opcodeOf], by simp [classOf, opcodeOf]⟩

theorem Laws.OpcodeField.writeRegister (addr value : Byte) : Laws.OpcodeField.Statement (.writeRegister addr value) :=
  ⟨opcodeField_encode _, aField_encode _, bField_encode _, by simp [opcodeOf, Machine.knownOpcodes],
    by simp [classOf, opcodeOf], by simp [classOf, opcodeOf]⟩

theorem Laws.OpcodeField.bulkTransfer (cmd : Byte) (length : Half) : Laws.OpcodeField.Statement (.bulkTransfer cmd length) :=
  ⟨opcodeField_encode _, aField_encode _, bField_encode _, by simp [opcodeOf, Machine.knownOpcodes],
    by simp [classOf, opcodeOf], by simp [classOf, opcodeOf]⟩

theorem Laws.OpcodeField.configure : Laws.OpcodeField.Statement .configure :=
  ⟨opcodeField_encode _, aField_encode _, bField_encode _, by simp [opcodeOf, Machine.knownOpcodes],
    by simp [classOf, opcodeOf], by simp [classOf, opcodeOf]⟩

theorem Laws.OpcodeField.registerCheck : Laws.OpcodeField.Statement .registerCheck :=
  ⟨opcodeField_encode _, aField_encode _, bField_encode _, by simp [opcodeOf, Machine.knownOpcodes],
    by simp [classOf, opcodeOf], by simp [classOf, opcodeOf]⟩

theorem Laws.OpcodeField.readFifoCount : Laws.OpcodeField.Statement .readFifoCount :=
  ⟨opcodeField_encode _, aField_encode _, bField_encode _, by simp [opcodeOf, Machine.knownOpcodes],
    by simp [classOf, opcodeOf], by simp [classOf, opcodeOf]⟩

theorem Laws.OpcodeField.fifoRead (count : Half) : Laws.OpcodeField.Statement (.fifoRead count) :=
  ⟨opcodeField_encode _, aField_encode _, bField_encode _, by simp [opcodeOf, Machine.knownOpcodes],
    by simp [classOf, opcodeOf], by simp [classOf, opcodeOf]⟩

theorem Laws.OpcodeField.fifoReset : Laws.OpcodeField.Statement .fifoReset :=
  ⟨opcodeField_encode _, aField_encode _, bField_encode _, by simp [opcodeOf, Machine.knownOpcodes],
    by simp [classOf, opcodeOf], by simp [classOf, opcodeOf]⟩

theorem Laws.OpcodeField.temperatureUpdate : Laws.OpcodeField.Statement .temperatureUpdate :=
  ⟨opcodeField_encode _, aField_encode _, bField_encode _, by simp [opcodeOf, Machine.knownOpcodes],
    by simp [classOf, opcodeOf], by simp [classOf, opcodeOf]⟩

theorem Laws.OpcodeField.tick : Laws.OpcodeField.Statement .tick :=
  ⟨opcodeField_encode _, aField_encode _, bField_encode _, by simp [opcodeOf, Machine.knownOpcodes],
    by simp [classOf, opcodeOf], by simp [classOf, opcodeOf]⟩

theorem Laws.OpcodeField.softReset : Laws.OpcodeField.Statement .softReset :=
  ⟨opcodeField_encode _, aField_encode _, bField_encode _, by simp [opcodeOf, Machine.knownOpcodes],
    by simp [classOf, opcodeOf], by simp [classOf, opcodeOf]⟩

theorem Laws.OpcodeField.drdySignal : Laws.OpcodeField.Statement .drdySignal :=
  ⟨opcodeField_encode _, aField_encode _, bField_encode _, by simp [opcodeOf, Machine.knownOpcodes],
    by simp [classOf, opcodeOf], by simp [classOf, opcodeOf]⟩

theorem Laws.OpcodeField.timerExpire : Laws.OpcodeField.Statement .timerExpire :=
  ⟨opcodeField_encode _, aField_encode _, bField_encode _, by simp [opcodeOf, Machine.knownOpcodes],
    by simp [classOf, opcodeOf], by simp [classOf, opcodeOf]⟩

theorem Laws.OpcodeField.cmdStart : Laws.OpcodeField.Statement .cmdStart :=
  ⟨opcodeField_encode _, aField_encode _, bField_encode _, by simp [opcodeOf, Machine.knownOpcodes],
    by simp [classOf, opcodeOf], by simp [classOf, opcodeOf]⟩

theorem Laws.OpcodeField.cmdStop : Laws.OpcodeField.Statement .cmdStop :=
  ⟨opcodeField_encode _, aField_encode _, bField_encode _, by simp [opcodeOf, Machine.knownOpcodes],
    by simp [classOf, opcodeOf], by simp [classOf, opcodeOf]⟩

theorem Laws.OpcodeField.cmdReset : Laws.OpcodeField.Statement .cmdReset :=
  ⟨opcodeField_encode _, aField_encode _, bField_encode _, by simp [opcodeOf, Machine.knownOpcodes],
    by simp [classOf, opcodeOf], by simp [classOf, opcodeOf]⟩

theorem Laws.OpcodeField.cmdPrintDiagnostics : Laws.OpcodeField.Statement .cmdPrintDiagnostics :=
  ⟨opcodeField_encode _, aField_encode _, bField_encode _, by simp [opcodeOf, Machine.knownOpcodes],
    by simp [classOf, opcodeOf], by simp [classOf, opcodeOf]⟩

end Sys2Proof
end

