-- ==== Sys2Proof/Laws/Shared.lean ====
section
/-!
SUPPORT. What the operations do to the shared cells: each but FifoReset consumes neither (R76, R78).
-/

namespace Sys2Proof.Machine

/-- The shared cells are not consumed, and the two masks are kept. -/
structure SharedKept (s t : State) : Prop where
  drdyEnabled : t.ctx.drdyEnabled = s.ctx.drdyEnabled
  timerEnabled : t.ctx.timerEnabled = s.ctx.timerEnabled
  cells : SharedNotConsumed s t

theorem SharedKept.refl (s : State) : SharedKept s s := ⟨rfl, rfl, BitVec.le_refl _, id, fun _ _ => rfl⟩

theorem SharedKept.trans {s t u : State} (h : SharedKept s t) (k : SharedKept t u) : SharedKept s u :=
  ⟨k.drdyEnabled.trans h.drdyEnabled, k.timerEnabled.trans h.timerEnabled,
    BitVec.le_trans h.cells.1 k.cells.1, fun hr => k.cells.2.1 (h.cells.2.1 hr),
    fun hd ht => (k.cells.2.2 (h.drdyEnabled.trans hd) (h.timerEnabled.trans ht)).trans (h.cells.2.2 hd ht)⟩

/-- An update that writes neither the shared cells nor a mask keeps them. -/
theorem SharedKept.update {s t u : State} (h : SharedKept s t) (h1 : u.shared = t.shared := by rfl)
    (h2 : u.ctx.drdyEnabled = t.ctx.drdyEnabled := by rfl) (h3 : u.ctx.timerEnabled = t.ctx.timerEnabled := by rfl) :
    SharedKept s u :=
  h.trans ⟨h2, h3, by rw [h1]; exact BitVec.le_refl _, by rw [h1]; exact id, fun _ _ => h1⟩

theorem callback_kept (s : State) (e : Callback) : SharedKept s (s.callback e) := by
  refine ⟨by simp, by simp, ?_, s.callback_request e, fun hd ht => ?_⟩
  · cases e
    · simp only [State.callback, State.drdySignal]
      split
      · exact le_satAdd32 _ _
      · exact BitVec.le_refl _
    · simp only [State.callback, State.timerExpire]
      split <;> exact BitVec.le_refl _
  · cases e <;> simp [State.callback, State.drdySignal, State.timerExpire, hd, ht]

theorem deliver_kept (s : State) (es : List Callback) : SharedKept s (s.deliver es) := by
  induction es generalizing s with
  | nil => exact .refl s
  | cons e es ih => exact (callback_kept s e).trans (ih _)

theorem transact_kept (s : State) (r : BusRequest) : SharedKept s (s.transact r) :=
  ((SharedKept.refl s).update).trans (deliver_kept _ _)

theorem readRegister_kept (addr : Byte) (s : State) : SharedKept s (readRegister addr s).2 := transact_kept s _
theorem writeRegister_kept (addr value : Byte) (s : State) : SharedKept s (writeRegister addr value s).2 := transact_kept s _

theorem bulkTransfer_kept {cmd : Byte} {n : Nat} {s t : State} {bytes : Option (List Byte)}
    (h : bulkTransfer cmd n s = .ok (bytes, t)) : SharedKept s t := by
  unfold bulkTransfer at h
  split at h
  · cases h
  · cases h
    exact transact_kept s _

theorem applyEntry_kept (e : RegisterConfigEntry) (s : State) : SharedKept s (applyEntry e s).2 := by
  have hb : SharedKept s (configBase e.reg s).2 := by
    unfold configBase
    split
    · exact readRegister_kept _ s
    · exact .refl s
  unfold applyEntry
  split <;> rename_i h <;> rw [h] at hb
  · exact hb
  · exact hb.trans (writeRegister_kept _ _ _)

theorem applyTable_kept (es : List RegisterConfigEntry) (s : State) : SharedKept s (applyTable es s).2 := by
  induction es generalizing s with
  | nil => exact .refl s
  | cons e rest ih =>
    have he := applyEntry_kept e s
    unfold applyTable
    split <;> rename_i h <;> rw [h] at he
    · exact he
    · exact he.trans (ih _)

theorem verifyEntry_kept (e : RegisterConfigEntry) (s : State) : SharedKept s (verifyEntry e s).2 := by
  have hr := readRegister_kept e.reg s
  unfold verifyEntry
  split <;> rename_i h <;> rw [h] at hr
  · exact hr
  · split
    · exact hr
    · exact hr.update

theorem verifyTable_kept (es : List RegisterConfigEntry) (bad : Nat) (s : State) :
    SharedKept s (verifyTable es bad s).2 := by
  induction es generalizing s bad with
  | nil => exact .refl s
  | cons e rest ih =>
    have he := verifyEntry_kept e s
    unfold verifyTable
    split <;> rename_i h <;> rw [h] at he
    · exact he
    · exact he.trans (ih _ _)
    · exact he.trans (ih _ _)

theorem configure_kept (s : State) : SharedKept s (configure s).2 := by
  have ha := applyTable_kept s.cfg.table s
  unfold configure
  split <;> rename_i h <;> rw [h] at ha
  · exact ha
  · exact ha.trans (verifyTable_kept _ _ _)

theorem registerCheck_kept (s : State) : SharedKept s (registerCheck s).2 := by
  have hr := ((SharedKept.refl s).update (u := s.advanceCursor)).trans
    (readRegister_kept (tableEntry s.cfg.table s.ctx.cursor).reg s.advanceCursor)
  unfold registerCheck
  split <;> rename_i h <;> rw [h] at hr
  · exact hr
  · split
    · exact hr
    · exact hr.update

theorem readPair_kept (lo hi : Byte) (s : State) : SharedKept s (readPair lo hi s).2 := by
  have h1 := readRegister_kept lo s
  unfold readPair
  split <;> rename_i h <;> rw [h] at h1
  · exact h1
  · have h2 := h1.trans (readRegister_kept hi _)
    split <;> rename_i h' <;> rw [h'] at h2 <;> exact h2

theorem readFifoCount_kept (s : State) : SharedKept s (readFifoCount s).2 := by
  have hp := readPair_kept s.cfg.regFifoLenLo s.cfg.regFifoLenHi s
  unfold readFifoCount
  split <;> rename_i h <;> rw [h] at hp
  · exact hp
  · rename_i raw s1
    cases classifyCount s1.cfg raw.toNat with
    | count n => exact hp
    | busErr => exact hp
    | empty => exact hp.update
    | overflow => exact hp.update

theorem fifoRead_kept {now : Time} {n : Nat} {s t : State} {r : FifoReadOutcome}
    (h : fifoRead now n s = .ok (r, t)) : SharedKept s t := by
  have count : ∀ u, SharedKept s u → SharedKept s u.countBadTransfer := fun u hu => hu.update
  have scan : ∀ u bad, SharedKept s u → SharedKept s (u.countScan bad) := by
    intro u bad hu
    cases bad with
    | none => exact hu
    | some k => exact count u hu
  unfold fifoRead at h
  split at h
  · cases h
  · rename_i hb
    cases h
    exact count _ (bulkTransfer_kept hb)
  · rename_i hb
    have hu := bulkTransfer_kept hb
    unfold parseBlock at h
    split at h
    · cases h
      exact count _ hu
    · split at h
      · cases h
        exact scan _ _ hu
      · split at h
        · cases h
        · cases h
          exact (scan _ _ hu).update

theorem temperatureUpdate_kept (now : Time) (s : State) : SharedKept s (temperatureUpdate now s).2 := by
  have hp := readPair_kept s.cfg.regTempLo s.cfg.regTempHi s
  unfold temperatureUpdate
  split <;> rename_i h <;> rw [h] at hp
  · exact hp
  · exact hp.update

theorem softReset_kept (s : State) : SharedKept s (softReset s).2 := by
  have hw := writeRegister_kept s.cfg.regCmdSoftreset s.cfg.valSoftreset s
  unfold softReset
  split <;> rename_i h <;> rw [h] at hw <;> exact hw

/-- FifoReset clears `pending` alone of the shared cells: a tick request is not withdrawn (R134). -/
theorem fifoReset_request (s : State) (hr : s.shared.tickRequested = true) :
    (fifoReset s).2.shared.tickRequested = true := by
  have hw := (writeRegister_kept s.cfg.regCmdFlush s.cfg.valFlush s).cells.2.1 hr
  unfold fifoReset
  split <;> rename_i h <;> rw [h] at hw <;> exact hw

end Sys2Proof.Machine
end

