-- ==== Sys2Proof/Machine/Assembler.lean ====
section
/-!
DEFINITION. The text form of a program (R106 to R108; D61 errs neither way): operations, the clock and bus annotations, and the
pseudo-instructions, read into program lines. Which texts beyond the spec's own forms are lines is log entry 22.
-/

namespace Sys2Proof.Machine

/-! ## Answers of a bus annotation (R107)

DESIGN CHOICE (log entry 21), which R107 and R116 leave open: no callback step falls into a transaction that one of these answers;
and one answered by another kind of answer than its own gets the parts given below (a write asks only whether it is `err`). -/

/-- The answer `0xNN` to a read. A bulk transfer that takes it receives a block of that one byte, and no callback step runs during
it (DESIGN CHOICE, log entry 21). -/
def answerByte (b : Byte) : BusAnswer := { error := false, byte := b, block := [b], during := [] }

/-- The answer `[..]` to a bulk transfer. A read that takes it receives its first byte, or 0x00 where it has none, and no callback
step runs during it (DESIGN CHOICE, log entry 21). -/
def answerBytes (bs : List Byte) : BusAnswer := { error := false, byte := bs.headD 0x00#8, block := bs, during := [] }

/-- The answer `ok` to a write. A read that takes it receives 0x00 and a bulk transfer an empty block, and no callback step runs
during it (DESIGN CHOICE, log entry 21). -/
def answerOk : BusAnswer := { error := false, byte := 0x00#8, block := [], during := [] }

/-- The answer `err`: BusError. No callback step runs during it (DESIGN CHOICE, log entry 21). -/
def answerErr : BusAnswer := { error := true, byte := 0x00#8, block := [], during := [] }

/-! ## Lexing -/

/-- The characters that separate tokens. R106 writes `A, V` and does not say whether a line with a missing or an extra comma is
one: a comma is read as a blank, so both are accepted (DESIGN CHOICE, log entry 22). -/
def isSeparator (c : Char) : Bool := c == ' ' || c == ',' || c == '\t'

/-- A token that may be empty, as a list of at most one token. -/
def tokenOf : List Char → List (List Char)
  | [] => []
  | c :: cs => [c :: cs]

/-- The tokens of a line, `;` beginning a comment and each bracket a token of its own; `cur` is the token being read. -/
def lexLine : List Char → (cur : List Char) → List (List Char)
  | [], cur => tokenOf cur
  | c :: cs, cur =>
    if c == ';' then tokenOf cur
    else if isSeparator c then tokenOf cur ++ lexLine cs []
    else if c == '[' || c == ']' then tokenOf cur ++ [c] :: lexLine cs []
    else lexLine cs (cur ++ [c])

/-- The value of a digit in a base. -/
def digitValue (base : Nat) (c : Char) : Option Nat :=
  let v :=
    if '0' ≤ c ∧ c ≤ '9' then c.toNat - 48
    else if 'a' ≤ c ∧ c ≤ 'f' then c.toNat - 87
    else if 'A' ≤ c ∧ c ≤ 'F' then c.toNat - 55
    else base
  if v < base then some v else none

/-- The value of a non-empty string of digits after those already read. -/
def digitsValue (base acc : Nat) : List Char → Option Nat
  | [] => some acc
  | c :: cs =>
    match digitValue base c with
    | some v => digitsValue base (acc * base + v) cs
    | none => none

/-- A number: decimal or `0x` hexadecimal (R106), with hexadecimal digits of either case (DESIGN CHOICE, log entry 22). -/
def numberOf : List Char → Option Nat
  | [] => none
  | ['0', 'x'] => none
  | '0' :: 'x' :: ds => digitsValue 16 0 ds
  | ds => digitsValue 10 0 ds

/-- A number below a bound. -/
def boundedNumber (bound : Nat) (t : List Char) : Option Nat :=
  match numberOf t with
  | some n => if n < bound then some n else none
  | none => none

/-! ## Operations (R106) and pseudo-instructions (R108) -/

/-- `drdy_tick` = `drdy` then `tick` (R108). -/
def drdyTick : List Instr := [.drdySignal, .tick]

/-- `timer_tick` = `timer` then `tick` (R108). -/
def timerTick : List Instr := [.timerExpire, .tick]

/-- `restart` = `stop`, `tick`, `start`, `tick` (R108). -/
def restart : List Instr := [.cmdStop, .tick, .cmdStart, .tick]

/-- The operations of a name and its operands (R106, R108); an operand that does not fit its field has none
(DESIGN CHOICE, log entry 22). -/
def assembleOp (name : String) (args : List Nat) : Option (List Instr) :=
  match name, args with
  | "read_register", [a] => if a < 2 ^ 8 then some [.readRegister (BitVec.ofNat 8 a)] else none
  | "write_register", [a, v] =>
    if a < 2 ^ 8 ∧ v < 2 ^ 8 then some [.writeRegister (BitVec.ofNat 8 a) (BitVec.ofNat 8 v)] else none
  | "bulk_transfer", [c, n] =>
    if c < 2 ^ 8 ∧ n < 2 ^ 16 then some [.bulkTransfer (BitVec.ofNat 8 c) (BitVec.ofNat 16 n)] else none
  | "configure", [] => some [.configure]
  | "register_check", [] => some [.registerCheck]
  | "read_fifo_count", [] => some [.readFifoCount]
  | "fifo_read", [n] => if n < 2 ^ 16 then some [.fifoRead (BitVec.ofNat 16 n)] else none
  | "fifo_reset", [] => some [.fifoReset]
  | "temperature_update", [] => some [.temperatureUpdate]
  | "tick", [] => some [.tick]
  | "soft_reset", [] => some [.softReset]
  | "drdy", [] => some [.drdySignal]
  | "timer", [] => some [.timerExpire]
  | "start", [] => some [.cmdStart]
  | "stop", [] => some [.cmdStop]
  | "reset", [] => some [.cmdReset]
  | "diag", [] => some [.cmdPrintDiagnostics]
  | "drdy_tick", [] => some drdyTick
  | "timer_tick", [] => some timerTick
  | "restart", [] => some restart
  | _, _ => none

/-- The numbers of a list of tokens. -/
def numbersOf : List (List Char) → Option (List Nat)
  | [] => some []
  | t :: ts =>
    match numberOf t, numbersOf ts with
    | some n, some ns => some (n :: ns)
    | _, _ => none

/-- The program lines of the tokens of an operation. -/
def opTokens : List (List Char) → Option (List ProgramLine)
  | [] => some []
  | name :: args =>
    match numbersOf args with
    | some ns => (assembleOp (String.ofList name) ns).map fun is => is.map fun i => .op (encode i)
    | none => none

/-! ## Annotations (R107) -/

/-- One answer that is a single token; a byte may be written in decimal too (DESIGN CHOICE, log entry 22). -/
def answerToken (t : List Char) : Option BusAnswer :=
  match String.ofList t with
  | "ok" => some answerOk
  | "err" => some answerErr
  | _ => (boundedNumber (2 ^ 8) t).map fun n => answerByte (BitVec.ofNat 8 n)

/-- The answers of a bus annotation; `block` holds the bytes of a byte list being read. -/
def answersOf : List (List Char) → (block : Option (List Byte)) → Option (List BusAnswer)
  | [], none => some []
  | [], some _ => none
  | ['['] :: ts, none => answersOf ts (some [])
  | t :: ts, none =>
    match answerToken t, answersOf ts none with
    | some a, some rest => some (a :: rest)
    | _, _ => none
  | [']'] :: ts, some bs => (answersOf ts none).map fun rest => answerBytes bs :: rest
  | t :: ts, some bs =>
    match boundedNumber (2 ^ 8) t with
    | some n => answersOf ts (some (bs ++ [BitVec.ofNat 8 n]))
    | none => none

/-- The program lines of one line of text: a bus annotation, or an operation with or without a clock annotation before it
(R106, R107); an annotation stands at the start of its line, and a clock annotation may stand alone (DESIGN CHOICE, log entry
22). -/
def lineTokens : List (List Char) → Option (List ProgramLine)
  | ['b', 'u', 's', ':'] :: ts => (answersOf ts none).map fun as => [.bus as]
  | ('@' :: 't' :: '=' :: t) :: ts =>
    match boundedNumber (2 ^ 64) t, opTokens ts with
    | some n, some lines => some (.atTime (BitVec.ofNat 64 n) :: lines)
    | _, _ => none
  | ts => opTokens ts

/-- The program lines of one line of text. -/
def assembleLine (line : String) : Option (List ProgramLine) := lineTokens (lexLine line.toList [])

/-- The program lines of a program text, one line of text after another. -/
def assemble : List String → Option (List ProgramLine)
  | [] => some []
  | l :: ls =>
    match assembleLine l, assemble ls with
    | some a, some b => some (a ++ b)
    | _, _ => none

/-- Program lines given to the machine, after those it already has. -/
def State.load (s : State) (lines : List ProgramLine) : State := { s with env.program := s.env.program ++ lines }

end Sys2Proof.Machine
end

