-- ==== Sys2Proof/Tests/Slice0.lean ====
section
/-!
SUPPORT. The model's own tests: expected results are the spec's (95_test_vectors.md, V and P numbers; or the rule's own example),
and each is one step on a small state. The last part shows, for each statement with hypotheses, values that meet them.
-/

namespace Sys2Proof.Machine.Test

/-! ## Small states -/

/-- Creation under the spec's example parameters. -/
def boot : State := State.create Params.vectors

/-- Creation in HARNESS_MODE, with the next clock value and the next answers of the transport given (R107). -/
def harness (t : Time) (answers : List BusAnswer) : State :=
  { State.create { Params.vectors with harnessMode := true } with
    env := { Env.created with time := some t, answers := answers } }

/-- A state with a tick requested, in an acquisition state, with the next clock value and answers given. -/
def asked (st : AcqState) (t : Time) (answers : List BusAnswer) : State :=
  { boot with ctx.state := st, env := { Env.created with time := some t, answers := answers } }

/-- S_ready (95_test_vectors.md, 1.6) with its history left out, a tick requested and `pending` given. -/
def ready (pending : BitVec 32) (t : Time) (answers : List BusAnswer) : State :=
  { asked .fifoRead t answers with
    ctx.state := .fifoRead
    ctx.drdyEnabled := true
    ctx.tReset := some 0#64
    ctx.tDrdy := some 2000#64
    ctx.tLastTick := some 2000#64
    shared.pending := pending }

/-- WAIT_FOR_RESET since time 0 (V80), with a probe of register 0x00 under a mask and value 0x01 where asked (V82). -/
def waiting (probe : Bool) (t : Time) (answers : List BusAnswer) : State :=
  { asked .waitForReset t answers with
    cfg := { Params.vectors with resetProbeMask := if probe then 1#8 else 0#8, resetProbeValue := 1#8 }
    ctx.tReset := some 0#64 }

/-- What a next state shows. -/
def after {α : Type} (r : Result) (f : State → α) : Option α :=
  match r with
  | .next t => some (f t)
  | .fault _ => none
  | .refused _ => none

/-- The operation and address of each transaction of a state. -/
def log (s : State) : List (BusOp × Byte) := requests s.out.busLog

/-- The raw values and times of the batches of a state. -/
def emitted (s : State) : List (List (Time × Half × Half × Half)) :=
  s.out.batches.map fun b => b.samples.map fun x => (x.t, x.rawX, x.rawY, x.rawZ)

/-- Frames F0, F1, F2 and FN of 95_test_vectors.md, 1.3. -/
def f0 : List Byte := [0xA0#8, 0x10#8, 0x00#8, 0xF0#8, 0xFF#8, 0xE8#8, 0x03#8]
def f1 : List Byte := [0xA0#8, 0x20#8, 0x00#8, 0xE0#8, 0xFF#8, 0xE9#8, 0x03#8]
def f2 : List Byte := [0xA0#8, 0x30#8, 0x00#8, 0xD0#8, 0xFF#8, 0xEA#8, 0x03#8]
def fN : List Byte := List.replicate 7 0x00#8

/-- A bulk block: the command and dummy pair, then frames (R93). -/
def block (frames : List (List Byte)) : BusAnswer := answerBytes ([0x00#8, 0x00#8] ++ frames.flatten)

/-! ## WellFormed refuses what R85 refuses -/

theorem test_wf_bulk_length_zero : WellFormed Params.vectors (.bulkTransfer 0x24#8 0#16) = false := by decide
theorem test_wf_fifo_count_zero : WellFormed Params.vectors (.fifoRead 0#16) = false := by decide
theorem test_wf_fifo_count_above : WellFormed Params.vectors (.fifoRead 11#16) = false := by decide
theorem test_wf_fifo_count_top : WellFormed Params.vectors (.fifoRead 10#16) = true := by decide

/-- A parameter set outside R10's range for TEMP_INTERVAL_US. -/
theorem test_wf_temp_interval_zero : { Params.vectors with tempIntervalUs := 0 }.wf = false := by decide

/-! ## Decoding: words written out from R82 to R84 -/

theorem test_decode_read_register : decode Params.vectors 0b00000001_01000010_0000000000000000#32 =
    .ok (.readRegister 0x42#8) := by decide
theorem test_decode_write_register : decode Params.vectors 0b00000010_01111111_00000000_01011010#32 =
    .ok (.writeRegister 0x7F#8 0x5A#8) := by decide
theorem test_decode_bulk_transfer : decode Params.vectors 0b00000011_00100100_0000000000100101#32 =
    .ok (.bulkTransfer 0x24#8 37#16) := by decide
theorem test_decode_configure : decode Params.vectors 0b00010000_00000000_0000000000000000#32 = .ok .configure := by decide
theorem test_decode_register_check : decode Params.vectors 0b00010001_00000000_0000000000000000#32 =
    .ok .registerCheck := by decide
theorem test_decode_read_fifo_count : decode Params.vectors 0b00100000_00000000_0000000000000000#32 =
    .ok .readFifoCount := by decide
theorem test_decode_fifo_read : decode Params.vectors 0b00100001_00000000_0000000000000101#32 =
    .ok (.fifoRead 5#16) := by decide
theorem test_decode_fifo_reset : decode Params.vectors 0b00100010_00000000_0000000000000000#32 = .ok .fifoReset := by decide
theorem test_decode_temperature_update : decode Params.vectors 0b00100011_00000000_0000000000000000#32 =
    .ok .temperatureUpdate := by decide
theorem test_decode_tick : decode Params.vectors 0b00110000_00000000_0000000000000000#32 = .ok .tick := by decide
theorem test_decode_soft_reset : decode Params.vectors 0b00110001_00000000_0000000000000000#32 = .ok .softReset := by decide
theorem test_decode_drdy_signal : decode Params.vectors 0b01000000_00000000_0000000000000000#32 = .ok .drdySignal := by
  decide
theorem test_decode_timer_expire : decode Params.vectors 0b01000001_00000000_0000000000000000#32 = .ok .timerExpire := by
  decide
theorem test_decode_cmd_start : decode Params.vectors 0b01010000_00000000_0000000000000000#32 = .ok .cmdStart := by decide
theorem test_decode_cmd_stop : decode Params.vectors 0b01010001_00000000_0000000000000000#32 = .ok .cmdStop := by decide
theorem test_decode_cmd_reset : decode Params.vectors 0b01010010_00000000_0000000000000000#32 = .ok .cmdReset := by decide
theorem test_decode_cmd_print_diagnostics : decode Params.vectors 0b01010011_00000000_0000000000000000#32 =
    .ok .cmdPrintDiagnostics := by decide

/-- V6 to V14: the first reason that applies. -/
theorem test_decode_invalid :
    decode Params.vectors 0x2100000B#32 = .error .operandRange ∧ decode Params.vectors 0x21000000#32 = .error .operandRange ∧
    decode Params.vectors 0x03240000#32 = .error .operandRange ∧ decode Params.vectors 0x01420001#32 = .error .nonZeroReserved ∧
    decode Params.vectors 0x027F015A#32 = .error .nonZeroReserved ∧
    decode Params.vectors 0x21010000#32 = .error .nonZeroReserved ∧
    decode Params.vectors 0x30000001#32 = .error .nonZeroReserved ∧
    decode Params.vectors 0x00000000#32 = .error .reservedOpcode ∧ decode Params.vectors 0x12000000#32 = .error .reservedOpcode ∧
    decode Params.vectors 0x54000000#32 = .error .reservedOpcode := by decide

/-- R106, R107 and R108: a line of text, and a pseudo-instruction with a comment. -/
theorem test_assemble :
    assembleLine "write_register 0x7F, 90 ; soft reset" = some [.op 0x027F005A#32] ∧
    assembleLine "@t=7000 drdy_tick" = some [.atTime 7000#64, .op 0x40000000#32, .op 0x30000000#32] ∧
    assembleLine "bus: 0x02, err, [0x00, 0xA0], ok" =
      some [.bus [answerByte 0x02#8, answerErr, answerBytes [0x00#8, 0xA0#8], answerOk]] := by decide

/-- R108: stop, let it take effect, restart. -/
theorem test_assemble_restart : assembleLine "restart" =
    some [.op 0x51000000#32, .op 0x30000000#32, .op 0x50000000#32, .op 0x30000000#32] := by decide

/-! ## One step of each operation -/

/-- V30. -/
theorem test_read_register : after (exec (.readRegister 0x42#8) (harness 0 [answerByte 0x03#8])) (·.out.lastOutcome) =
    some (some (.readRegister (.ok [0x03#8]))) := by decide

/-- V31: one event, no retry. -/
theorem test_read_register_err : after (exec (.readRegister 0x42#8) (harness 0 [answerErr, answerByte 3#8]))
    (fun t => (t.out.lastOutcome, log t)) =
      some (some (.readRegister .busError), [(.readRegister, 0x42#8)]) := by decide

/-- V32. -/
theorem test_write_register : after (exec (.writeRegister 0x7F#8 0x5A#8) (harness 0 [answerOk])) (·.out.busLog) =
    some [⟨.writeRegister, 0x7F#8, 0x005A#16, .ok [], .reset⟩] := by decide

/-- V34, and the transmitted bytes of R94. -/
theorem test_bulk_transfer :
    after (exec (.bulkTransfer 0x24#8 9#16) (harness 0 [answerBytes [0, 0, 0xA0, 0x10, 0, 0xF0, 0xFF, 0, 0x80]]))
      (·.out.lastOutcome) = some (some (.bulkTransfer (.ok [0, 0, 0xA0, 0x10, 0, 0xF0, 0xFF, 0, 0x80]))) ∧
    txBytes (.bulk 0x24#8 9) = [0x24, 0, 0, 0, 0, 0, 0, 0, 0] := by decide

/-- V36: a fault before any transaction. -/
theorem test_bulk_transfer_overflow : ∃ left, exec (.bulkTransfer 0x24#8 73#16) (harness 0 [answerOk]) =
    .fault (.scratchOverflow 73 left) ∧ left.out.busLog = [] ∧ left.faults = [.scratchOverflow] := ⟨_, rfl, by decide⟩

/-- V25: T1's readback lacks 0x10. -/
theorem test_configure_mismatch :
    after (exec .configure (harness 0 [answerByte 0, answerOk, answerByte 0, answerOk, answerByte 0, answerOk,
      answerByte 2, answerByte 0, answerByte 3])) (fun t => (t.out.lastOutcome, t.ctx.cntBadRegister, (log t).length)) =
      some (some (.configure .failMismatch), 1#64, 9) := by decide

/-- V27: the base read of T1 fails, and no readback is made. -/
theorem test_configure_bus_error :
    after (exec .configure (harness 0 [answerByte 0, answerOk, answerErr])) (fun t => (t.out.lastOutcome, log t)) =
      some (some (.configure .failBusError), [(.readRegister, 0x40#8), (.writeRegister, 0x40#8), (.readRegister, 0x41#8)]) :=
  by decide

/-- V71: the cursor wraps, and bit 2 is a clear bit. -/
theorem test_register_check_mismatch :
    after (exec .registerCheck { harness 0 [answerByte 0x07#8] with ctx.cursor := 2 })
      (fun t => (t.out.lastOutcome, t.ctx.cursor, t.ctx.cntBadRegister)) =
      some (some (.registerCheck .mismatch), 0, 1#64) := by decide

/-- V72: a bus error is no mismatch, and the cursor has moved on. -/
theorem test_register_check_bus_error :
    after (exec .registerCheck { harness 0 [answerErr] with ctx.cursor := 1 })
      (fun t => (t.out.lastOutcome, t.ctx.cursor, t.ctx.cntBadRegister)) =
      some (some (.registerCheck .busErr), 2, 0#64) := by decide

/-- V43: the capacity itself is no overflow. -/
theorem test_read_fifo_count_top : after (exec .readFifoCount (harness 0 [answerByte 0x0A#8, answerByte 0x00#8]))
    (·.out.lastOutcome) = some (some (.readFifoCount (.count 10))) := by decide

/-- V46: the high byte counts 256 (R96). -/
theorem test_read_fifo_count_overflow : after (exec .readFifoCount (harness 0 [answerByte 0x00#8, answerByte 0x01#8]))
    (fun t => (t.out.lastOutcome, t.ctx.cntFifoOverflow)) = some (some (.readFifoCount .overflow), 1#64) := by decide

/-- V61: truncated at frame 1, which is counted; the sample keeps the time of its frame. -/
theorem test_fifo_read_truncated :
    after (exec (.fifoRead 3#16) (harness 10000#64 [block [f0, fN, f2]]))
      (fun t => (t.out.lastOutcome, emitted t, t.ctx.cntBadTransfer)) =
      some (some (.fifoRead (.badFrame 1)), [[(8000#64, 16#16, 0xFFF0#16, 1000#16)]], 1#64) := rfl

/-- V66: the oldest sample would be before time 0. -/
theorem test_fifo_read_underflow : ∃ left, exec (.fifoRead 3#16) (harness 1500#64 [block [f0, f1, f2]]) =
    .fault (.timestampUnderflow 1500#64 3 1000 left) ∧ left.out.batches = [] ∧ left.ctx.cntBadTransfer = 0#64 :=
  ⟨_, rfl, by decide⟩

/-- V75. -/
theorem test_fifo_reset :
    after (exec .fifoReset { harness 0 [answerOk] with shared.pending := 5#32, ctx.badframeStreak := 3 })
      (fun t => (t.shared.pending, t.ctx.badframeStreak, t.ctx.cntFifoReset, t.out.busLog)) =
      some (0#32, 0, 1#64, [⟨.writeRegister, 0x7F#8, 0x3C#16, .ok [], .reset⟩]) := by decide

/-- V76: on a bus error nothing is written. -/
theorem test_fifo_reset_err :
    after (exec .fifoReset { harness 0 [answerErr] with shared.pending := 5#32, ctx.badframeStreak := 3 })
      (fun t => (t.shared.pending, t.ctx.badframeStreak, t.ctx.cntFifoReset)) = some (5#32, 3, 0#64) := by decide

/-- V77. -/
theorem test_temperature_update :
    after (exec .temperatureUpdate (harness 2000#64 [answerByte 0x34#8, answerByte 0x12#8]))
      (fun t => (t.ctx.tempRaw, t.ctx.tTemp)) = some (some 0x1234#16, some 2000#64) := by decide

/-- V78: one transaction. -/
theorem test_temperature_update_err : after (exec .temperatureUpdate (harness 2000#64 [answerErr]))
    (fun t => (t.ctx.tTemp, log t)) = some (none, [(.readRegister, 0x20#8)]) := by decide

/-- R145's example. -/
theorem test_soft_reset : after (exec .softReset (harness 7#64 [answerOk])) (fun t => (t.out.busLog, t.ctx.tLastTick)) =
    some ([⟨.writeRegister, 0x7F#8, 0x005A#16, .ok [], .reset⟩], some 7#64) := by decide

/-- P1: scenario A, one batch of two frames here, with the temperature read in the same tick. -/
theorem test_tick_happy :
    after (exec .tick (ready 5#32 7000#64 [answerByte 2, answerByte 2, answerByte 0, block [f0, f1], answerByte 0x34,
      answerByte 0x12])) (fun t => (emitted t, t.ctx.cursor, t.ctx.drdyIntervalLast, t.ctx.tTemp, t.shared.pending)) =
      some ([[(6000#64, 16#16, 0xFFF0#16, 1000#16), (7000#64, 32#16, 0xFFE0#16, 1001#16)]], 1, some 5000#64,
        some 7000#64, 0#32) := rfl

/-- V97: the bulk transfer fails; it is counted, and the temperature is not read. -/
theorem test_tick_bulk_error :
    after (exec .tick (ready 5#32 7000#64 [answerByte 2, answerByte 5, answerByte 0, answerErr]))
      (fun t => (log t, t.ctx.cntBadTransfer, t.ctx.busErrorStreak)) =
      some ([(.readRegister, 0x40#8), (.readRegister, 0x22#8), (.readRegister, 0x23#8), (.bulkTransfer, 0x24#8)], 1#64, 1) :=
  by decide

/-- R160's example. -/
theorem test_drdy_signal : after (exec .drdySignal { ready 0#32 0 [] with shared.tickRequested := false }) (·.shared) =
    some { pending := 5#32, tickRequested := true } := by decide

/-- V89: the line is masked at creation. -/
theorem test_drdy_signal_masked : after (exec .drdySignal boot) (·.shared.pending) = some 0#32 := by decide

/-- R161's example. -/
theorem test_timer_expire : after (exec .timerExpire { boot with shared.tickRequested := false }) (·.shared.tickRequested) =
    some true := by decide

/-- R163's example. -/
theorem test_cmd_start : after (exec .cmdStart { boot with ctx.state := .stopped, ctx.initFailed := true })
    (fun t => (t.ctx.state, t.ctx.initFailed)) = some (.reset, false) := by decide

/-- V92: no effect outside STOPPED. -/
theorem test_cmd_start_running : exec .cmdStart (ready 0#32 0 []) = .next (ready 0#32 0 []) := rfl

/-- V91. -/
theorem test_cmd_stop : after (exec .cmdStop { ready 0#32 0 [] with shared.tickRequested := false })
    (fun t => (t.ctx.state, t.shared.tickRequested)) = some (.requestStop, true) := by decide

/-- V93: no tick is requested in STOPPED. -/
theorem test_cmd_stop_stopped : after (exec .cmdStop { boot with ctx.state := .stopped, shared.tickRequested := false })
    (fun t => (t.ctx.state, t.shared.tickRequested)) = some (.stopped, false) := by decide

/-- R165's example. -/
theorem test_cmd_reset : after (exec .cmdReset { ready 0#32 0 [] with ctx.cntFifoEmpty := 7#64 })
    (fun t => (t.ctx.state, t.ctx.cntFifoEmpty, t.ctx.tDrdy)) = some (.reset, 0#64, some 2000#64) := by decide

/-- V95. -/
theorem test_cmd_print_diagnostics : after (exec .cmdPrintDiagnostics { boot with shared.tickRequested := false })
    (fun t => (t.out.diagnostics.map fun d => (d.state, d.timerEnabled, d.tTemp), t.shared.tickRequested)) =
      some ([(0#3, true, none)], false) := by decide

/-! ## Witnesses: values that meet the hypotheses of each statement that has some, at the boundaries where clauses meet -/

/-- Creation with one program word placed. -/
def placed (w : Word) : State := { boot with env.program := [.op w] }

theorem test_witness_DecodeOfEncode :
    WellFormed Params.vectors (.fifoRead 1#16) = true ∧ WellFormed Params.vectors (.fifoRead 10#16) = true ∧
    WellFormed Params.vectors (.bulkTransfer 0x24#8 1#16) = true ∧
    WellFormed Params.vectors (.bulkTransfer 0x24#8 0xFFFF#16) = true := by decide

theorem test_witness_EncodeOfDecode : decode Params.vectors 0x2100000A#32 = .ok (.fifoRead 10#16) := by decide

theorem test_witness_DecoderReasonsInOrder :
    (opcodeField 0x54000000#32).toNat ∉ knownOpcodes ∧
    ((opcodeField 0x21010000#32).toNat ∈ knownOpcodes ∧ ¬ UnusedFieldsZero 0x21010000#32) ∧
    ((opcodeField 0x2100000B#32).toNat ∈ knownOpcodes ∧ UnusedFieldsZero 0x2100000B#32 ∧
      ¬ OperandsInRange Params.vectors 0x2100000B#32) ∧
    (opcodeField 0x2100000A#32).toNat ∈ knownOpcodes ∧ UnusedFieldsZero 0x2100000A#32 ∧
      OperandsInRange Params.vectors 0x2100000A#32 := by
  unfold UnusedFieldsZero OperandsInRange
  decide

theorem test_witness_InvalidWordsHaveNoStep :
    (placed 0x12000000#32).faults = [] ∧ (placed 0x12000000#32).cfg.wf = true ∧
    (placed 0x12000000#32).env.program = .op 0x12000000#32 :: [] ∧
    decode (placed 0x12000000#32).cfg 0x12000000#32 = .error .reservedOpcode := by decide

theorem test_witness_StepRunsTheDecodedWord :
    (placed 0x30000000#32).faults = [] ∧ (placed 0x30000000#32).cfg.wf = true ∧
    (placed 0x30000000#32).env.program = .op 0x30000000#32 :: [] ∧
    decode (placed 0x30000000#32).cfg 0x30000000#32 = .ok .tick := by decide

theorem test_witness_AnnotationsComeIntoForce :
    (harness 7#64 [answerErr, answerOk]).env.time = some 7#64 ∧
    (harness 7#64 [answerErr, answerOk]).env.answers = answerErr :: [answerOk] := by decide

theorem test_witness_FaultsAreFinal :
    (∃ t, exec .softReset (harness 7#64 [answerOk]) = .next t) ∧
    (∃ prev now left, exec .softReset { harness 7#64 [answerOk] with ctx.tLastTick := some 8#64 } =
      .fault (.clockRegression prev now left)) ∧
    (∃ t n k left, exec (.fifoRead 3#16) (harness 1999#64 [block [f0, f1, f2]]) =
      .fault (.timestampUnderflow t n k left)) ∧
    (∃ n left, exec (.bulkTransfer 0#8 73#16) (harness 0 []) = .fault (.scratchOverflow n left)) ∧
    ({ boot with faults := [.clockRegression] } : State).faults ≠ [] :=
  ⟨⟨_, rfl⟩, ⟨_, _, _, rfl⟩, ⟨_, _, _, _, rfl⟩, ⟨_, _, rfl⟩, by decide⟩

/-- At the boundary of two checks: a maximum wait that equals the settle time passes, and one less is refused; a temperature
interval of 1 passes, and 0 is refused. -/
theorem test_witness_IllFormedParametersRefused :
    boot.faults = [] ∧ { Params.vectors with resetMaxWaitUs := 1000 }.wf = true ∧
    (∃ c, step { boot with cfg := { Params.vectors with resetMaxWaitUs := 999 } } = .refused (.illFormedParameters c)) ∧
    { Params.vectors with tempIntervalUs := 1 }.wf = true ∧
    ∃ c, step { boot with cfg := { Params.vectors with tempIntervalUs := 0 } } = .refused (.illFormedParameters c) :=
  ⟨by decide, by decide, ⟨_, rfl⟩, by decide, _, rfl⟩

theorem test_witness_AdmissionByClass :
    classOf .configure ≠ .boundary ∧ boot.cfg.harnessMode = false ∧ classOf .tick = .boundary ∧
    (harness 0 []).cfg.harnessMode = true := by decide

theorem test_witness_HarnessOperationsKeepTheSequencing :
    classOf .fifoReset ≠ .boundary ∧ classOf .softReset ≠ .boundary ∧
    (∃ t, exec .softReset (harness 7#64 [answerOk]) = .next t) ∧ ∃ t, exec .fifoReset (harness 7#64 [answerOk]) = .next t :=
  ⟨by decide, by decide, ⟨_, rfl⟩, _, rfl⟩

theorem test_witness_ReadRegisterReadsOneByte :
    (harness 0 [answerErr]).cfg.harnessMode = true ∧ clockRuns (harness 0 [answerErr]) = true := by decide

theorem test_witness_WriteRegisterWritesOneByte :
    (harness 0 [answerErr]).cfg.harnessMode = true ∧ clockRuns (harness 0 [answerErr]) = true := by decide

theorem test_witness_BulkTransferMovesItsBytes :
    (harness 0 []).cfg.harnessMode = true ∧ clockRuns (harness 0 []) = true ∧
    (72#16 : Half).toNat ≤ (harness 0 []).cfg.scratchSize := by decide

theorem test_witness_BulkBeyondScratchFaults :
    (harness 0 []).cfg.harnessMode = true ∧ clockRuns (harness 0 []) = true ∧
    2 + 7 * min (harness 0 []).cfg.devFifoCap (harness 0 []).cfg.consBatchCap < (73#16 : Half).toNat := by decide

theorem test_witness_FreeBulkAnswerHasTheLengthAsked : boot.env.answers = [] := by decide

theorem test_witness_WriteValueSatisfiesEntry :
    (⟨0x40#8, 0x02#8, 0x01#8⟩ : RegisterConfigEntry).setBits &&& 0x01#8 = 0x00#8 := by decide

theorem test_witness_ConfigureCompletes :
    (harness 0 []).cfg.harnessMode = true ∧ clockRuns (harness 0 []) = true := by decide

/-- The answers of V25, where T1 fails its readback. -/
def badReadback : List BusAnswer := [answerByte 0, answerOk, answerByte 0, answerOk, answerByte 0, answerOk] ++
  [answerByte 2, answerByte 0, answerByte 3]

/-- The harness state with base mode ZERO. -/
def zeroMode (answers : List BusAnswer) : State := { harness 0 answers with cfg.configBaseMode := .zero }

/-- R119: in RMW mode a base of 0x85 becomes 0x86 under T0; in ZERO mode the write is T0's set bits. -/
theorem test_configure_writes :
    after (exec .configure (harness 0 [answerByte 0x85, answerErr])) (fun t => t.out.busLog[1]?.map (·.b)) =
      some (some 0x0086#16) ∧
    after (exec .configure (zeroMode [answerErr])) (fun t => t.out.busLog[0]?.map (·.b)) = some (some 0x0002#16) := by decide

/-- Both modes: the last entry's write happens, and a bus error ends the attempt. -/
theorem test_witness_ConfigureOrderIsTheTables :
    (∃ t, exec .configure (harness 0 badReadback) = .next t ∧ t.out.lastOutcome ≠ some (.configure .failBusError) ∧
      (harness 0 badReadback).cfg.configBaseMode = .rmw ∧ boot.cfg.table[2]? = some ⟨0x42#8, 0x03#8, 0x0C#8⟩ ∧
      (t.out.busLog[2 * 2 + 1]?).isSome = true) ∧
    (∃ t, exec .configure (zeroMode (answerOk :: answerOk :: answerOk :: badReadback.drop 6)) = .next t ∧
      (zeroMode []).cfg.configBaseMode = .zero ∧ (t.out.busLog[2]?).isSome = true) ∧
    ∃ t, exec .configure (harness 0 [answerErr]) = .next t ∧ t.out.lastOutcome = some (.configure .failBusError) :=
  ⟨⟨_, rfl, by decide⟩, ⟨_, rfl, by decide⟩, _, rfl, by decide⟩

/-- Both modes, with one bad readback, and a bus error at the last readback after that bad one. -/
theorem test_witness_ConfigureDetectsEveryBadReadback :
    ((harness 0 badReadback).cfg.configBaseMode = .rmw ∧
      (harness 0 badReadback).env.answers = badReadback.take 6 ++ badReadback.drop 6 ++ [] ∧
      (badReadback.take 6).length = 2 * (harness 0 badReadback).cfg.table.length ∧
      (∀ a ∈ badReadback.take 6, a.error = false) ∧
      (badReadback.drop 6).length = boot.cfg.table.length ∧ (∀ a ∈ badReadback.drop 6, a.error = false) ∧
      ∃ t, exec .configure (harness 0 badReadback) = .next t) ∧
    ((zeroMode []).cfg.configBaseMode = .zero ∧ [answerOk, answerOk, answerOk].length = 1 * (zeroMode []).cfg.table.length ∧
      (∀ a ∈ [answerOk, answerOk, answerOk], a.error = false) ∧
      ∃ t, exec .configure (zeroMode (answerOk :: answerOk :: answerOk :: badReadback.drop 6)) = .next t) ∧
    ([answerByte 2, answerByte 0].length < boot.cfg.table.length ∧ (∀ a ∈ [answerByte 2, answerByte 0], a.error = false) ∧
      answerErr.error = true ∧
      ∃ t, exec .configure (harness 0 (badReadback.take 8 ++ [answerErr])) = .next t ∧
        t.out.lastOutcome = some (.configure .failBusError) ∧ t.ctx.cntBadRegister = 1#64) :=
  ⟨⟨by decide, by decide, by decide, by decide, by decide, by decide, _, rfl⟩, ⟨by decide, by decide, by decide, _, rfl⟩,
    by decide, by decide, by decide, _, rfl, by decide, by decide⟩

theorem test_witness_ConfigureStopsAtTheFirstBusError :
    ∃ t, exec .configure (harness 0 [answerByte 0, answerErr]) = .next t ∧
      t.out.lastOutcome = some (.configure .failBusError) := ⟨_, rfl, by decide⟩

theorem test_witness_RegisterCheckReadsTheEntryAtTheCursor :
    (harness 0 []).cfg.harnessMode = true ∧ clockRuns (harness 0 []) = true ∧
    (harness 0 []).cfg.table[2]? = some ⟨0x42#8, 0x03#8, 0x0C#8⟩ := by decide

theorem test_witness_RoundRobinCoversTheTable :
    ({ boot with ctx.cursor := 2 } : State).ctx.cursor < boot.cfg.table.length := by decide

theorem test_witness_ReadFifoCountClassifies :
    (harness 0 [answerByte 11, answerByte 0]).cfg.harnessMode = true ∧
    clockRuns (harness 0 [answerByte 11, answerByte 0]) = true := by decide

/-- A tick whose two count reads give 11, one above the capacity; the flush and the temperature reads follow. -/
def overflowing : State :=
  ready 5#32 7000#64 [answerByte 2, answerByte 11, answerByte 0, answerOk, answerByte 0x34, answerByte 0x12]

theorem test_witness_CountLaw :
    Params.vectors.wf = true ∧ Params.vectors.devFifoCap * Params.vectors.fifoCountDiv < 11 ∧
    10 ≤ Params.vectors.devFifoCap * Params.vectors.fifoCountDiv ∧
    (readFifoCount (ready 0 0 [answerByte 11, answerByte 0, answerOk])).1 = .overflow ∧
    (∃ t, fifoWork 0 (ready 0 0 [answerByte 11, answerByte 0, answerOk]) = .ok (false, t)) ∧
    (overflowing.cfg = Params.vectors ∧ overflowing.shared.tickRequested = true ∧ overflowing.ctx.state = .fifoRead ∧
      (checkStep overflowing.clockValue (prologue overflowing)).1 = .matched ∧ fifoWorkAt overflowing = true ∧
      (readFifoCount (workStart overflowing)).1 = .overflow) ∧ ∃ t, exec .tick overflowing = .next t :=
  ⟨by decide, by decide, by decide, by decide, ⟨_, rfl⟩, by decide, _, rfl⟩

/-- At the boundary: the oldest sample's time is exactly 0. Before it: no frame validates (V68), a bus error, a short block. -/
theorem test_witness_FifoReadEmitsTheValidFrames :
    (harness 2000#64 []).cfg.harnessMode = true ∧ clockRuns (harness 2000#64 []) = true ∧
    WellFormed (harness 2000#64 []).cfg (.fifoRead 3#16) = true ∧
    ((3#16 : Half).toNat - 1) * (harness 2000#64 []).cfg.sampleIntervalUs ≤ (harness 2000#64 []).clockValue.toNat ∧
    clockRuns (harness 500#64 []) = true ∧ (scanFrames Params.vectors (block [fN, f1, f2]).block 3 0).1 = [] ∧
    (!answerErr.error) = false ∧ ((block [f0, f1]).block.length == 2 + (3#16 : Half).toNat * 7) = false := by decide

theorem test_witness_EarlyFifoReadFaults :
    clockRuns (harness 1999#64 [block [f0, f1, f2]]) = true ∧
    WellFormed (harness 1999#64 [block [f0, f1, f2]]).cfg (.fifoRead 3#16) = true ∧
    (1999#64 : Time).toNat < ((3#16 : Half).toNat - 1) * Params.vectors.sampleIntervalUs ∧
    (block [f0, f1, f2]).error = false ∧ (block [f0, f1, f2]).block.length = 2 + 3 * 7 ∧
    (scanFrames Params.vectors (block [f0, f1, f2]).block 3 0).1 ≠ [] := by decide

/-- The last frame has the captured time, the first one two intervals less. -/
theorem test_witness_TimestampLaw :
    (3 - 1) * Params.vectors.sampleIntervalUs ≤ (2000#64 : Time).toNat ∧
    (∀ r ∈ [rawSample 0 f0, rawSample 2 f2], r.k < 3) ∧
    ((batchOf Params.vectors 2000#64 3 [rawSample 0 f0, rawSample 2 f2]).samples.map (·.t)) = [0#64, 2000#64] := by decide

theorem test_witness_TruncationLaw :
    (block [f0, fN, f2]).block.length = 2 + 3 * 7 ∧ (3 - 1) * Params.vectors.sampleIntervalUs ≤ (2000#64 : Time).toNat ∧
    (Params.vectors.tagClass ((block [f0, fN, f2]).block.getD (2 + 1 * 7) 0) ≠ .valid ∧
      ∀ j < 1, Params.vectors.tagClass ((block [f0, fN, f2]).block.getD (2 + j * 7) 0) = .valid) ∧
    Params.vectors.tagClass ((block [fN]).block.getD (2 + 0 * 7) 0) ≠ .valid ∧
    ∀ k < 3, Params.vectors.tagClass ((block [f0, f1, f2]).block.getD (2 + k * 7) 0) = .valid := by decide

theorem test_witness_FifoResetFlushes :
    (harness 0 [answerErr]).cfg.harnessMode = true ∧ clockRuns (harness 0 [answerErr]) = true := by decide

theorem test_witness_TemperatureUpdateStoresThePair :
    (harness 0 []).cfg.harnessMode = true ∧ clockRuns (harness 0 []) = true := by decide

theorem test_witness_SoftResetWritesTheCommand :
    (harness 0 []).cfg.harnessMode = true ∧ clockRuns (harness 0 []) = true := by decide

theorem test_witness_UnrequestedTickWaits :
    ({ boot with shared.tickRequested := false } : State).shared.tickRequested = false ∧
    boot.shared.tickRequested = true ∧ ∃ t, exec .timerExpire boot = .next t := ⟨by decide, by decide, _, rfl⟩

/-- V90: 4999 after 5000; the same time is no fault. -/
theorem test_witness_ClockRegressionFaults :
    (asked .reset 4999#64 []).clockValue < 5000#64 ∧ (asked .reset 4999#64 []).shared.tickRequested = true ∧
    classOf .softReset ≠ .boundary ∧ (harness 4999#64 []).clockValue < 5000#64 ∧ (harness 4999#64 []).cfg.harnessMode = true ∧
    clockRuns { asked .reset 5000#64 [] with ctx.tLastTick := some 5000#64 } = true := by decide

theorem test_witness_TickCompletes :
    (asked .fifoRead 9000#64 []).shared.tickRequested = true ∧ clockRuns (asked .fifoRead 9000#64 []) = true ∧
    (boot.cfg.maxSamples - 1) * boot.cfg.sampleIntervalUs ≤ (asked .fifoRead 9000#64 []).clockValue.toNat := by decide

theorem test_witness_DataReadyBookkeeping :
    (ready 5#32 7000#64 []).shared.tickRequested = true ∧ 0 < (ready 5#32 7000#64 []).shared.pending.toNat ∧
    0 < (1#32 : BitVec 32).toNat ∧ (ready 0#32 7000#64 []).shared.pending = 0#32 ∧
    (∃ t, exec .tick { ready 5#32 7000#64 [] with ctx.state := .stopped } = .next t) ∧
    ∃ t, exec .tick { ready 0#32 7000#64 [] with ctx.state := .stopped } = .next t :=
  ⟨by decide, by decide, by decide, by decide, ⟨_, rfl⟩, _, rfl⟩

theorem test_witness_ResetTick :
    (asked .reset 0 [answerErr]).shared.tickRequested = true ∧ clockRuns (asked .reset 0 [answerErr]) = true ∧
    (asked .reset 0 [answerErr]).ctx.state = .reset := by decide

/-- V80 to V82: the settle time, and the maximum wait, at the boundary. -/
theorem test_witness_WaitForResetTick :
    (waiting true 1000#64 []).shared.tickRequested = true ∧ clockRuns (waiting true 1000#64 []) = true ∧
    (waiting true 1000#64 []).ctx.state = .waitForReset ∧ (waiting true 1000#64 []).ctx.tReset = some 0#64 ∧
    (0#64 : Time) ≤ (waiting true 1000#64 []).clockValue ∧
    after (exec .tick (waiting false 999#64 [])) (·.ctx.state) = some .waitForReset ∧
    after (exec .tick (waiting false 1000#64 [])) (·.ctx.state) = some .configure ∧
    after (exec .tick (waiting true 100000#64 [answerByte 0])) (·.ctx.state) = some .waitForReset ∧
    after (exec .tick (waiting true 100001#64 [answerByte 0])) (·.ctx.state) = some .stopped ∧
    after (exec .tick (waiting true 100001#64 [answerByte 1])) (·.ctx.state) = some .configure := by decide

/-- V85: a failed attempt below the ceiling, and the one that reaches it. -/
theorem test_witness_ConfigureTick :
    (asked .configure 0 [answerErr]).shared.tickRequested = true ∧ clockRuns (asked .configure 0 [answerErr]) = true ∧
    (configure (prologue (asked .configure 0 [answerErr]))).1 ≠ .success ∧
    (configure (prologue (asked .configure 0 (badReadback.take 7 ++ [answerByte 0x10, answerByte 3])))).1 = .success ∧
    1 + 1 < boot.cfg.configAttemptMax ∧ boot.cfg.configAttemptMax ≤ 2 + 1 := by decide

theorem test_witness_MismatchTickReconfigures :
    (ready 0 3000#64 [answerByte 3]).shared.tickRequested = true ∧ clockRuns (ready 0 3000#64 [answerByte 3]) = true ∧
    (ready 0 3000#64 [answerByte 3]).ctx.state = .fifoRead ∧
    due boot.cfg.cfgCheckIntervalUs 3000#64 (ready 0 3000#64 [answerByte 3]).ctx.tCfgCheck = true ∧
    boot.cfg.table[0]? = some ⟨0x40#8, 0x02#8, 0x01#8⟩ ∧ (answerByte 3).error = false ∧
    satisfied ⟨0x40#8, 0x02#8, 0x01#8⟩ (answerByte 3).byte = false := by decide

/-- A bus error of the check, of a count read, of the bulk transfer, of the flush and of a temperature read, one below the
threshold and at it; a tick without one; and a tick that a mismatch ends. -/
theorem test_witness_BusErrorTickEndsItsBusActivity :
    (ready 0 3000#64 [answerErr]).shared.tickRequested = true ∧ clockRuns (ready 0 3000#64 [answerErr]) = true ∧
    due boot.cfg.cfgCheckIntervalUs 3000#64 (some 3000#64) = true ∧ boot.cfg.table[0]? = some ⟨0x40#8, 0x02#8, 0x01#8⟩ ∧
    ((ready 0 3000#64 [answerErr]).answer (.read 0x40#8)).error = true ∧ 1 + 1 < boot.cfg.busErrorResetThreshold ∧
    ¬ 2 + 1 < boot.cfg.busErrorResetThreshold ∧
    (∀ streak ∈ [1, 2], ∀ answers ∈ [[answerErr], [answerByte 2, answerByte 5, answerErr],
        [answerByte 2, answerByte 1, answerByte 0, answerErr], [answerByte 2, answerByte 11, answerByte 0, answerErr],
        [answerByte 2, answerByte 0, answerByte 0, answerByte 0x34, answerErr]],
      after (exec .tick { ready 5#32 7000#64 answers with ctx.busErrorStreak := streak })
        (fun t => (t.ctx.state, t.ctx.busErrorStreak, (log t).length, t.env.answers)) =
        some (if streak = 1 then .fifoRead else .reset, if streak = 1 then 2 else 0, answers.length, [])) ∧
    after (exec .tick { ready 5#32 7000#64 [answerByte 2, answerByte 0, answerByte 0, answerByte 0x34, answerByte 0x12] with
      ctx.busErrorStreak := 2 }) (fun t => (t.ctx.state, t.ctx.busErrorStreak)) = some (.fifoRead, 0) ∧
    after (exec .tick { ready 0 3000#64 [answerByte 3] with ctx.busErrorStreak := 2 })
      (fun t => (t.ctx.state, t.ctx.busErrorStreak)) = some (.configure, 2) := by decide

/-- A state of FIFO_READ with neither the check nor the temperature due, `t` after the last data-ready time 2000. -/
def paced (t : Time) : State :=
  { ready 0#32 t [] with
    cfg := { Params.vectors with cfgCheckIntervalUs := 100000 }
    ctx.tCfgCheck := some 2000#64
    ctx.tTemp := some 2000#64 }

/-- P4: a gap of exactly twice the expected interval is no stall, and one microsecond more is. The check matches where it is due
and where it is not; the work follows from an event, from a stall, or from the path being disabled. -/
theorem test_witness_FifoWorkIsPacedByDataReady :
    (paced 12000#64).shared.tickRequested = true ∧ clockRuns (paced 12000#64) = true ∧
    due (paced 12000#64).cfg.cfgCheckIntervalUs 12000#64 (paced 12000#64).ctx.tCfgCheck = false ∧
    (checkStep 12000#64 (prologue (paced 12000#64))).1 = .matched ∧
    due boot.cfg.cfgCheckIntervalUs 7000#64 (ready 5 7000#64 [answerByte 2]).ctx.tCfgCheck = true ∧
    (checkStep 7000#64 (prologue (ready 5 7000#64 [answerByte 2]))).1 = .matched ∧
    due (paced 12000#64).cfg.tempIntervalUs 12000#64 (paced 12000#64).ctx.tTemp = false ∧
    ((paced 12000#64).ctx.drdyEnabled = true ∧ (paced 12000#64).shared.pending = 0#32 ∧
      ¬ 2 * (paced 12000#64).cfg.drdyExpectedIntervalUs < elapsedOpt 12000#64 (paced 12000#64).ctx.tDrdy) ∧
    2 * (paced 12001#64).cfg.drdyExpectedIntervalUs < elapsedOpt 12001#64 (paced 12001#64).ctx.tDrdy ∧
    (ready 5 7000#64 []).shared.pending ≠ 0#32 ∧
    ({ paced 12000#64 with ctx.drdyEnabled := false } : State).ctx.drdyEnabled = false := by decide

/-- A FIFO_READ tick that consumed an event and whose register check matches, with the answers after the check given. -/
def working (answers : List BusAnswer) : State := ready 5#32 7000#64 (answerByte 2 :: answers)

/-- The count a tick's work reads, and the outcome of the FifoRead it makes. -/
def batchOutcome (s : State) : Option FifoReadOutcome :=
  match readFifoCount (workStart s) with
  | (.count n, t) => (fifoRead s.clockValue n t).toOption.map (·.1)
  | (.busErr, _) => none
  | (.overflow, _) => none
  | (.empty, _) => none

/-- Each outcome of the count and of the batch, and both sides of the bad-frame threshold. -/
theorem test_witness_FifoOutcomesInATick :
    ((working []).shared.tickRequested = true ∧ clockRuns (working []) = true ∧ (working []).ctx.state = .fifoRead ∧
      (checkStep (working []).clockValue (prologue (working []))).1 = .matched ∧ fifoWorkAt (working []) = true) ∧
    (readFifoCount (workStart (working [answerErr]))).1 = .busErr ∧
    (readFifoCount (workStart (working [answerByte 0, answerByte 0]))).1 = .empty ∧
    (readFifoCount (workStart (working [answerByte 11, answerByte 0]))).1 = .overflow ∧
    (readFifoCount (workStart (working [answerByte 2, answerByte 0]))).1 = .count 2 ∧
    batchOutcome (working [answerByte 2, answerByte 0, block [f0, f1]]) = some .ok ∧
    batchOutcome (working [answerByte 2, answerByte 0, answerErr]) = some .busErr ∧
    batchOutcome (working [answerByte 2, answerByte 0, block [f0, fN]]) = some (.badFrame 1) ∧
    batchOutcome (working [answerByte 2, answerByte 0, block [f0]]) = some .badLength ∧
    1 + 1 < boot.cfg.badframeResetThreshold ∧ boot.cfg.badframeResetThreshold ≤ 2 + 1 := by decide

/-- A batch dated before time 0 ends such a tick in its fault. -/
theorem test_witness_FifoOutcomesInATick_fault :
    ∃ f, fifoRead 500#64 2 (ready 5#32 500#64 [block [f0, f1]]) = .error f := ⟨_, rfl⟩

/-- R156's four cases: the update runs, fails, is not due, or is left out after a bus error of the check or of the work. -/
theorem test_witness_TemperatureUpdateInATick :
    ((0#64 : Time) ≤ 100#64 ∧ due 100 100#64 (some 0#64) = true ∧ due 101 100#64 (some 0#64) = false) ∧
    (∃ v, afterWork (working [answerByte 0, answerByte 0, answerByte 0x34, answerByte 0x12]) = .ok (false, v) ∧
      (v.answer (.read 0x20#8)).error = false ∧ due boot.cfg.tempIntervalUs 7000#64 none = true) ∧
    (∃ v, afterWork (working [answerByte 0, answerByte 0, answerErr]) = .ok (false, v) ∧
      (v.answer (.read 0x20#8)).error = true) ∧
    (∃ v, afterWork (paced 12000#64) = .ok (false, v) ∧
      due (paced 12000#64).cfg.tempIntervalUs 12000#64 (paced 12000#64).ctx.tTemp = false) ∧
    (∃ v, afterWork (working [answerErr]) = .ok (true, v)) ∧
    (checkStep 7000#64 (prologue (ready 5#32 7000#64 [answerErr]))).1 = .busErr :=
  ⟨by decide, ⟨_, rfl, by decide⟩, ⟨_, rfl, by decide⟩, ⟨_, rfl, by decide⟩, ⟨_, rfl⟩, by decide⟩

theorem test_witness_StoppingTicks :
    (asked .requestStop 0 []).shared.tickRequested = true ∧ clockRuns (asked .requestStop 0 []) = true ∧
    (asked .stopped 0 []).ctx.state = .stopped ∧ (asked .stopped 0 []).shared.pending = 0#32 := by decide

theorem test_witness_DataReadySignal : boot.ctx.drdyEnabled = false ∧ (ready 0 0 []).ctx.drdyEnabled = true := by decide

theorem test_witness_TimerExpiry :
    boot.ctx.timerEnabled = true ∧ ({ boot with ctx.timerEnabled := false } : State).ctx.timerEnabled = false := by decide

theorem test_witness_CmdStart : boot.ctx.state ≠ .stopped ∧ (asked .stopped 0 []).ctx.state = .stopped := by decide

theorem test_witness_CmdStop : boot.ctx.state ≠ .stopped ∧ (asked .stopped 0 []).ctx.state = .stopped := by decide

/-- A step into WAIT_FOR_RESET and one into FIFO_READ. -/
theorem test_witness_TransitionTable :
    (∃ t, exec .tick (asked .reset 0 [answerOk]) = .next t ∧ t.ctx.state = .waitForReset) ∧
    ∃ t, exec .tick (asked .configure 0 (badReadback.take 7 ++ [answerByte 0x10, answerByte 3])) = .next t ∧
      t.ctx.state = .fifoRead := ⟨⟨_, rfl, by decide⟩, _, rfl, by decide⟩

/-- Creation meets the invariant's premises, and a step of it answers a next state. -/
theorem test_witness_StepKeepsTheInvariant :
    boot.cfg.wf = true ∧ boot.ctx.cursor < boot.cfg.table.length ∧ boot.ctx.configFailStreak < boot.cfg.configAttemptMax ∧
    boot.ctx.busErrorStreak < boot.cfg.busErrorResetThreshold ∧ boot.ctx.tReset = none ∧ boot.ctx.timerEnabled = true ∧
    ∃ t, step (placed 0x53000000#32) = .next t :=
  ⟨by decide, by decide, by decide, by decide, by decide, by decide, _, rfl⟩

/-- The invariant itself at the state the step witness runs from. -/
theorem test_witness_StepKeepsTheInvariant_inv : Inv (placed 0x53000000#32) where
  params := by decide
  ctx := by constructor <;> simp [placed, boot, State.create, Ctx.created, StampOk, Params.vectors, vectorTable]

theorem test_witness_ResetMeetsTheInvariant : Params.vectors.wf = true := by decide

theorem test_witness_FifoAccessStaysInFifoRead :
    boot.cfg.harnessMode = false ∧ FifoAccessOnlyInFifoRead boot ∧ ∃ t, step (placed 0x53000000#32) = .next t :=
  ⟨by decide, fun e he => absurd he (by simp [boot, State.create]), _, rfl⟩

theorem test_witness_ConsumerSeesValidBatches :
    boot.cfg.wf = true ∧ BatchesOk boot ∧ ∃ t, step (placed 0x53000000#32) = .next t :=
  ⟨by decide, fun e he => absurd he (by simp [boot, State.create]), _, rfl⟩

theorem test_witness_CountersAreMonotonic :
    (∃ t, exec .readFifoCount (harness 0 [answerByte 0, answerByte 0]) = .next t) ∧ Instr.readFifoCount ≠ .cmdReset :=
  ⟨⟨_, rfl⟩, by decide⟩

theorem test_witness_HistoriesAppendOnly : ∃ t, exec .cmdPrintDiagnostics boot = .next t := ⟨_, rfl⟩

end Sys2Proof.Machine.Test
end

/-!
The family 00_scope: which parameter sets `step` refuses. The checks of R13 and R10 are stated as facts about the parameters,
and no operation answers the refusal of an ill-formed set, so that refusal comes from the checks alone.
-/

namespace Sys2Proof

/-! ## The checks on the parameters (R13, R10) -/

theorem masksDisjoint_iff (e : RegisterConfigEntry) : masksDisjoint e = true ↔ e.setBits &&& e.clearBits = 0x00#8 :=
  beq_iff_eq

theorem Params.scratchSize_eq (p : Params) : p.scratchSize = 2 + min p.devFifoCap p.consBatchCap * 7 := rfl

/-- A set without a failing check is a well-formed one. -/
theorem Params.firstFailing_eq_none_iff (p : Params) : p.firstFailing = none ↔ p.wf = true := by
  simp [Params.firstFailing, Params.wf]

/-- The checks in the order of `paramChecks`, as facts about the parameters. -/
theorem Params.wf_iff (p : Params) : p.wf = true ↔
    1 ≤ p.table.length ∧ (∀ e ∈ p.table, e.setBits &&& e.clearBits = 0x00#8) ∧ 1 ≤ p.devFifoCap ∧
      1 ≤ p.consBatchCap ∧ 1 ≤ p.sampleIntervalUs ∧ 1 ≤ p.watermarkSamples ∧ p.settleMinUs ≤ p.resetMaxWaitUs ∧
      1 ≤ p.fifoCountDiv ∧ p.devFifoCap * p.fifoCountDiv ≤ 0xFFFF ∧
      2 + min p.devFifoCap p.consBatchCap * 7 ≤ 0xFFFF ∧ 1 ≤ p.configAttemptMax ∧
      1 ≤ p.busErrorResetThreshold ∧ 1 ≤ p.badframeResetThreshold ∧ 1 ≤ p.tempIntervalUs := by
  simp only [Params.wf, paramChecks, List.all_cons, List.all_nil, Bool.and_true, Bool.and_eq_true, Params.passes,
    decide_eq_true_eq, List.all_eq_true, masksDisjoint_iff]
  rw [Params.scratchSize_eq]

end Sys2Proof

namespace Sys2Proof.Machine

/-! ## What an operation can be refused for (R86) -/

theorem next_ne_refused (s : State) (r : Refusal) : (.next s : Result) ≠ .refused r := nofun

theorem taskResult_ne_refused (x : Except Fault State) (r : Refusal) : taskResult x ≠ .refused r := by
  cases x with
  | ok s => exact next_ne_refused s r
  | error f => exact nofun

/-- The only refusal of an operation issued on its own is R86's, outside HARNESS_MODE. -/
theorem issueAlone_refused_inv {op : Time → State → Except Fault (OpOutcome × State)} {s : State} {r : Refusal}
    (h : issueAlone op s = .refused r) : s.cfg.harnessMode = false ∧ r = .internalOperation := by
  cases hm : s.cfg.harnessMode with
  | false =>
    rw [issueAlone_refused op hm] at h
    cases h
    exact ⟨rfl, rfl⟩
  | true =>
    unfold issueAlone at h
    rw [if_pos hm] at h
    split at h
    · cases h
    · split at h <;> cases h

/-- A class B operation is never refused. -/
theorem exec_ne_refused_of_boundary {i : Instr} (hi : classOf i = .boundary) (s : State) (r : Refusal) :
    exec i s ≠ .refused r := by
  cases i with
  | tick =>
    rw [exec_tick]
    split
    · exact taskResult_ne_refused _ r
    · exact next_ne_refused _ r
  | drdySignal => exact next_ne_refused _ r
  | timerExpire => exact next_ne_refused _ r
  | cmdStart => rw [exec_cmdStart]; split <;> exact next_ne_refused _ r
  | cmdStop => rw [exec_cmdStop]; split <;> exact next_ne_refused _ r
  | cmdReset => exact next_ne_refused _ r
  | cmdPrintDiagnostics => exact next_ne_refused _ r
  | _ => cases hi

/-- The only refusal of an operation: a class I or X operation outside HARNESS_MODE, as InternalOperation. -/
theorem exec_refused_inv {i : Instr} {s : State} {r : Refusal} (h : exec i s = .refused r) :
    classOf i ≠ .boundary ∧ s.cfg.harnessMode = false ∧ r = .internalOperation := by
  have hi : classOf i ≠ .boundary := fun hb => exec_ne_refused_of_boundary hb s r h
  obtain ⟨op, hop⟩ := exec_alone hi
  rw [hop] at h
  exact ⟨hi, issueAlone_refused_inv h⟩

/-! ## The refusal of a parameter set (R13, R179) -/

/-- Where no fault is raised, `step` refuses for the parameters exactly if a check names a failing one: whatever runs after
the checks, a word or an operation, is refused for another reason or not at all. -/
theorem step_refuses_parameters_iff {s : State} (hs : s.faults = []) :
    (∃ c, step s = .refused (.illFormedParameters c)) ↔ s.cfg.firstFailing ≠ none := by
  unfold step
  rw [hs]
  cases hc : s.cfg.firstFailing with
  | some c => exact ⟨fun _ => Option.some_ne_none c, fun _ => ⟨c, rfl⟩⟩
  | none =>
    refine ⟨fun ⟨c, h⟩ => ?_, fun h => absurd rfl h⟩
    dsimp only at h
    split at h
    · cases h
    · obtain ⟨-, -, hr⟩ := exec_refused_inv h
      cases hr

/-- Settles O9: `step` refuses for the parameters exactly if a check fails, and the checks are R13's with R10's bound. -/
theorem illFormedParametersRefused : Obligations.IllFormedParametersRefused := by
  unfold Obligations.IllFormedParametersRefused
  intro s hs
  rw [step_refuses_parameters_iff hs, ← Params.wf_iff, Ne, Params.firstFailing_eq_none_iff]

end Sys2Proof.Machine

/-!
The family 10_state. One lemma each says what every operation keeps of the state (`Framed`), which contexts the arm of a tick
and then any operation can leave (`ArmRan`, `CtxAfter`), and what a fault adds to the fault set (`Fault.Raises`). The invariant
of the context, the accounting counters and the completion of a tick are read off these.
-/

namespace Sys2Proof.Machine

/-! ## What every operation keeps: the parameters, the fault set, the histories (R30, R50, R51, R53, R57) -/

theorem HistoryKept.refl (o : Out) : HistoryKept o o := ⟨List.prefix_rfl, List.prefix_rfl, List.prefix_rfl⟩

theorem HistoryKept.trans {a b c : Out} (h : HistoryKept a b) (k : HistoryKept b c) : HistoryKept a c := by
  obtain ⟨h1, h2, h3⟩ := h
  obtain ⟨k1, k2, k3⟩ := k
  exact ⟨h1.trans k1, h2.trans k2, h3.trans k3⟩

/-- `t` has the parameters and the fault set of `s`, and its histories extend those of `s`. -/
structure Framed (s t : State) : Prop where
  cfg : t.cfg = s.cfg
  faults : t.faults = s.faults
  history : HistoryKept s.out t.out

theorem Framed.trans {s t u : State} (h : Framed s t) (k : Framed t u) : Framed s u :=
  ⟨k.cfg.trans h.cfg, k.faults.trans h.faults, h.history.trans k.history⟩

/-- An update of the context, the shared cells or the environment is framed. -/
theorem Framed.of_eq {s t : State} (hc : t.cfg = s.cfg := by rfl) (hf : t.faults = s.faults := by rfl)
    (ho : t.out = s.out := by rfl) : Framed s t :=
  ⟨hc, hf, ho ▸ .refl _⟩

/-- The record of an outcome is no history (log entry 8). -/
theorem State.record_framed (s : State) (r : OpOutcome) : Framed s (s.record r) := ⟨rfl, rfl, .refl s.out⟩

/-- A run of the task is framed. -/
theorem Did.framed {P : BusEvent → Prop} {s t : State} {c : Ctx} (h : Did P s c t) : Framed s t := by
  obtain ⟨evs, hlog, -⟩ := h.log
  exact ⟨h.cfg, h.faults, h.batches_prefix, h.diagnostics ▸ List.prefix_rfl, evs, hlog.symm⟩

/-- Whichever arm a tick runs is a run of the task, whatever its events. -/
theorem runArm_did_any {s t : State} (h : runArm s.clockValue (drdyPending s) (prologue s) = .ok t) :
    ∃ c, Did (fun _ => True) (prologue s) c t :=
  runArm_did h (fun _ _ => trivial) (fun _ _ _ => trivial) (fun _ _ _ _ => ⟨trivial, fun _ => trivial⟩) fun _ _ => trivial

/-- The arm of a tick is framed, seen from the state the tick starts in. -/
theorem runArm_framed {s t : State} (h : runArm s.clockValue (drdyPending s) (prologue s) = .ok t) : Framed s t := by
  obtain ⟨c, hd⟩ := runArm_did_any h
  exact Framed.trans .of_eq hd.framed

/-- Every operation keeps the parameters and the fault set, and appends to the histories alone. -/
theorem exec_framed {i : Instr} {s t : State} (h : exec i s = .next t) : Framed s t := by
  by_cases hi : classOf i = .boundary
  case neg =>
    obtain ⟨-, -, r, u, c, rfl, hd, -⟩ := exec_alone_inv (P := fun _ => True) hi h fun _ _ => trivial
    exact Framed.trans .of_eq (hd.framed.trans (u.record_framed r))
  cases i with
  | tick =>
    rcases exec_tick_inv h with ⟨-, rfl⟩ | ⟨-, -, ha⟩
    · exact .of_eq
    · exact runArm_framed ha
  | drdySignal =>
    cases h
    exact .of_eq (by simp) (by simp) (by simp)
  | timerExpire =>
    cases h
    exact .of_eq (by simp) (by simp) (by simp)
  | cmdStart =>
    rw [exec_cmdStart] at h
    split at h <;> cases h <;> exact .of_eq
  | cmdStop =>
    rw [exec_cmdStop] at h
    split at h <;> cases h <;> exact .of_eq
  | cmdReset =>
    cases h
    exact .of_eq
  | cmdPrintDiagnostics =>
    cases h
    exact ⟨rfl, rfl, List.prefix_rfl, List.prefix_append _ _, List.prefix_rfl⟩
  | _ => cases hi

/-- Settles O58: it is part of what every operation keeps. -/
theorem historiesAppendOnly : Obligations.HistoriesAppendOnly := by
  unfold Obligations.HistoriesAppendOnly
  intro i s t h
  exact ⟨(exec_framed h).history, (exec_framed h).cfg⟩

/-! ## The contexts a tick's arm can leave (R143 to R159) -/

/-- What EnterReset makes of a context (R144). -/
def Ctx.enterReset (c : Ctx) : Ctx :=
  { c with
    state := .reset, cursor := 0, drdyEnabled := false
    configFailStreak := 0, busErrorStreak := 0, badframeStreak := 0 }

theorem State.enterReset_ctx_eq (s : State) : s.enterReset.ctx = s.ctx.enterReset := rfl

/-- The contexts that the arm of a tick can leave from the context `c` of its prologue, one constructor for each way an arm
ends. -/
inductive ArmRan (p : Params) (now : Time) (c : Ctx) : Ctx → Prop where
  /-- The state is kept and nothing is written: a failed soft reset, a reset still waited for, or STOPPED. -/
  | kept : ArmRan p now c c
  /-- RESET to WAIT_FOR_RESET (R146). -/
  | resetIssued (hs : c.state = .reset) : ArmRan p now c { c with tReset := some now, state := .waitForReset }
  /-- WAIT_FOR_RESET to CONFIGURE (R147). -/
  | settled (hs : c.state = .waitForReset) : ArmRan p now c { c with state := .configure, configFailStreak := 0 }
  /-- WAIT_FOR_RESET to STOPPED, the initialization failed (R147). -/
  | timedOut : ArmRan p now c { c with initFailed := true, drdyEnabled := false, timerEnabled := false, state := .stopped }
  /-- CONFIGURE to FIFO_READ (R150). -/
  | configured (n : Counter) (hs : c.state = .configure) (hn : c.cntBadRegister ≤ n) :
      ArmRan p now c
        { c with
          cntBadRegister := n, state := .fifoRead, configFailStreak := 0, drdyEnabled := p.drdyAvailable
          tDrdy := some now, busErrorStreak := 0, badframeStreak := 0 }
  /-- A failed attempt below the ceiling (R149). -/
  | attemptFailed (n : Counter) (hn : c.cntBadRegister ≤ n) (hk : c.configFailStreak + 1 < p.configAttemptMax) :
      ArmRan p now c { c with cntBadRegister := n, configFailStreak := c.configFailStreak + 1 }
  /-- A failed attempt at the ceiling (R149). -/
  | attemptsExhausted (n : Counter) (hs : c.state = .configure) (hn : c.cntBadRegister ≤ n) :
      ArmRan p now c { c.enterReset with cntBadRegister := n }
  /-- FIFO_READ to CONFIGURE after a mismatch (R153). -/
  | mismatched (d : Ctx) (hs : c.state = .fifoRead) (hw : Worked p now c d) :
      ArmRan p now c { d with state := .configure, cursor := if p.cursorResetOnConfigure then 0 else d.cursor }
  /-- The work of FIFO_READ, with the bus-error streak after it (R157). -/
  | worked (d : Ctx) (k : Nat) (hw : Worked p now c d) (hk : k = 0 ∨ k < p.busErrorResetThreshold) :
      ArmRan p now c { d with busErrorStreak := k }
  /-- The work of FIFO_READ, with the streak at its threshold (R157). -/
  | busErrorsExhausted (d : Ctx) (hs : c.state = .fifoRead) (hw : Worked p now c d) : ArmRan p now c d.enterReset
  /-- REQUEST_STOP to STOPPED (R158). -/
  | stopped : ArmRan p now c { c with drdyEnabled := false, timerEnabled := false, state := .stopped }

theorem armReset_ran (now : Time) (s : State) (hs : s.ctx.state = .reset) : ArmRan s.cfg now s.ctx (armReset now s).ctx := by
  rcases armReset_did (P := fun _ => True) now s fun _ => trivial with hd | ⟨-, hd⟩ <;> rw [hd.ctx]
  · exact .kept
  · exact .resetIssued hs

theorem armWait_ran (now : Time) (s : State) (hs : s.ctx.state = .waitForReset) :
    ArmRan s.cfg now s.ctx (armWait now s).ctx := by
  rcases armWait_did (P := fun _ => True) now s fun _ _ => trivial with hd | ⟨-, -, hd⟩ | ⟨-, -, hd⟩ <;> rw [hd.ctx]
  · exact .kept
  · exact .settled hs
  · exact .timedOut

theorem armConfigure_ran (now : Time) (s : State) (hs : s.ctx.state = .configure) :
    ArmRan s.cfg now s.ctx (armConfigure now s).ctx := by
  obtain ⟨n, hn, ⟨-, hd⟩ | ⟨hk, hd⟩ | ⟨-, -, hd⟩⟩ := armConfigure_did (P := fun _ => True) now s
    (fun _ _ _ => ⟨trivial, fun _ => trivial⟩) <;> rw [hd.ctx]
  · exact .configured n hs hn
  · exact .attemptFailed n hn hk
  · rw [State.enterReset_ctx_eq]
    exact .attemptsExhausted n hs hn

theorem armFifoRead_ran {now : Time} {seen : Bool} {s t : State} (hs : s.ctx.state = .fifoRead)
    (h : armFifoRead now seen s = .ok t) : ArmRan s.cfg now s.ctx t.ctx := by
  rcases armFifoRead_inv (P := fun _ => True) (fun _ _ => trivial) hs h with
    ⟨u, ⟨hd, hw⟩, -, rfl, -⟩ | ⟨u, b, ⟨hd, hw⟩, rfl, -⟩
  · rw [State.reconfigure_ctx, hd.cfg]
    exact .mismatched u.ctx hs hw
  · rcases accountBusError_ctx u b with ⟨-, hc⟩ | ⟨-, hk, hc⟩ | ⟨-, -, hc⟩ <;> rw [hc]
    · exact .worked u.ctx 0 hw (.inl rfl)
    · exact .worked u.ctx _ hw (.inr (hd.cfg ▸ hk))
    · rw [State.enterReset_ctx_eq]
      exact .busErrorsExhausted u.ctx hs hw

/-- Whichever arm a tick runs leaves one of the contexts of `ArmRan`. -/
theorem runArm_ran {now : Time} {seen : Bool} {s t : State} (h : runArm now seen s = .ok t) :
    ArmRan s.cfg now s.ctx t.ctx := by
  unfold runArm at h
  split at h <;> rename_i hs
  · cases h
    exact armReset_ran now s hs
  · cases h
    exact armWait_ran now s hs
  · cases h
    exact armConfigure_ran now s hs
  · exact armFifoRead_ran hs h
  · cases h
    exact .stopped
  · cases h
    exact .kept

/-- No arm writes the time of the tick. -/
theorem ArmRan.tLastTick {p : Params} {now : Time} {c d : Ctx} (h : ArmRan p now c d) : d.tLastTick = c.tLastTick := by
  cases h with
  | mismatched d _ hw => exact hw.tLastTick
  | worked d k hw _ => exact hw.tLastTick
  | busErrorsExhausted d _ hw => exact hw.tLastTick
  | _ => rfl

/-! ## The contexts an operation can leave -/

/-- The contexts that operation `i` can leave from the state `s`, one constructor for each kind of operation that writes the
context. -/
inductive CtxAfter (i : Instr) (s : State) : Ctx → Prop where
  /-- Nothing is written: the events, the snapshot, an unrequested tick, a command without effect. -/
  | kept : CtxAfter i s s.ctx
  /-- An operation issued alone writes at most what the work of a FIFO_READ tick may (R86). -/
  | alone {d : Ctx} (hc : clockRuns s = true) (hw : Worked s.cfg s.clockValue s.timed.ctx d) : CtxAfter i s d
  /-- A requested tick runs its arm after its prologue (R141). -/
  | ticked {d : Ctx} (hc : clockRuns s = true) (hr : ArmRan s.cfg s.clockValue (prologue s).ctx d) : CtxAfter i s d
  /-- CMD_START in STOPPED (R163). -/
  | started : CtxAfter i s { s.ctx.enterReset with initFailed := false, timerEnabled := true }
  /-- CMD_STOP outside STOPPED (R164). -/
  | stopRequested (hs : s.ctx.state ≠ .stopped) : CtxAfter i s { s.ctx with state := .requestStop }
  /-- CMD_RESET, which alone clears the counters (R165). -/
  | countersCleared (hi : i = .cmdReset) : CtxAfter i s s.enterReset.clearCounters.restarted.ctx

/-- Every operation leaves one of the contexts of `CtxAfter`. -/
theorem exec_ctxAfter {i : Instr} {s t : State} (h : exec i s = .next t) : CtxAfter i s t.ctx := by
  by_cases hi : classOf i = .boundary
  case neg =>
    obtain ⟨-, hc, r, u, c, rfl, hd, hw⟩ := exec_alone_inv (P := fun _ => True) hi h fun _ _ => trivial
    rw [State.record_ctx, hd.ctx]
    exact .alone hc hw
  cases i with
  | tick =>
    rcases exec_tick_inv h with ⟨-, rfl⟩ | ⟨-, hc, ha⟩
    · exact .kept
    · exact .ticked hc (runArm_ran ha)
  | drdySignal =>
    cases h
    rw [State.drdySignal_ctx]
    exact .kept
  | timerExpire =>
    cases h
    rw [State.timerExpire_ctx]
    exact .kept
  | cmdStart =>
    rw [exec_cmdStart] at h
    split at h <;> cases h
    · exact .started
    · exact .kept
  | cmdStop =>
    rw [exec_cmdStop] at h
    split at h <;> cases h
    · exact .kept
    · rename_i hs
      exact .stopRequested hs
  | cmdReset =>
    cases h
    exact .countersCleared rfl
  | cmdPrintDiagnostics =>
    cases h
    exact .kept
  | _ => cases hi

/-! ## The invariant of the context (R33, R34, R42, R43, R159, R167) -/

theorem StampOk.now (now : Time) : StampOk (some now) (some now) := by
  rintro _ ⟨⟩
  exact ⟨now, rfl, BitVec.le_refl now⟩

/-- A stamp stays in order when the time of the last tick moves on. -/
theorem StampOk.advance {last stamp : Option Time} {now : Time} (h : StampOk last stamp)
    (hn : ∀ l, last = some l → l ≤ now) : StampOk (some now) stamp := by
  intro t ht
  obtain ⟨l, hl, htl⟩ := h t ht
  exact ⟨now, rfl, BitVec.le_trans htl (hn l hl)⟩

/-- A stamp that is kept or becomes the time of the tick is in order. -/
theorem StampOk.kept_or_now {stamp stamp' : Option Time} {now : Time} (h : StampOk (some now) stamp)
    (hs : stamp' = stamp ∨ stamp' = some now) : StampOk (some now) stamp' := by
  rcases hs with rfl | rfl
  · exact h
  · exact .now now

theorem le_clockValue_of_clockRuns {s : State} (h : clockRuns s = true) (l : Time) (hl : s.ctx.tLastTick = some l) :
    l ≤ s.clockValue := by
  unfold clockRuns at h
  rw [hl] at h
  exact of_decide_eq_true h

/-- The time of a tick, written, keeps the invariant. -/
theorem CtxInv.timed {p : Params} {c : Ctx} {now : Time} (h : CtxInv p c) (hn : ∀ l, c.tLastTick = some l → l ≤ now) :
    CtxInv p { c with tLastTick := some now } :=
  { h with
    tReset := h.tReset.advance hn
    tCfgCheck := h.tCfgCheck.advance hn
    tDrdy := h.tDrdy.advance hn
    tTemp := h.tTemp.advance hn }

/-- The data-ready note of a tick keeps the invariant. -/
theorem CtxInv.noteDrdy {p : Params} {c : Ctx} {now : Time} (h : CtxInv p c) (hl : c.tLastTick = some now) :
    CtxInv p (c.noteDrdy now) :=
  { h with
    tDrdy := hl ▸ .now now
    reading := fun _ => Option.some_ne_none now }

theorem prologue_tLastTick (s : State) : (prologue s).ctx.tLastTick = some s.clockValue := by rw [prologue_ctx_eq]

/-- The prologue of a tick at a clock that runs keeps the invariant. -/
theorem CtxInv.prologue {s : State} (h : CtxInv s.cfg s.ctx) (hc : clockRuns s = true) :
    CtxInv s.cfg (prologue s).ctx := by
  have ht := h.timed (le_clockValue_of_clockRuns hc)
  rw [prologue_ctx]
  split
  · exact ht.noteDrdy rfl
  · exact ht

/-- EnterReset keeps the invariant where the block is not stopped. -/
theorem CtxInv.enterReset {p : Params} {c : Ctx} (h : CtxInv p c) (hs : c.state ≠ .stopped) : CtxInv p c.enterReset :=
  { h with
    cursor := Nat.zero_lt_of_lt h.cursor
    configStreak := Nat.zero_lt_of_lt h.configStreak
    busStreak := Nat.zero_lt_of_lt h.busStreak
    waiting := nofun
    reading := nofun
    timer := ⟨nofun, fun _ => h.timer.mpr hs⟩
    drdy := nofun
    failed := fun hf => absurd (h.failed hf) hs }

/-- The restart of CMD_START and CMD_RESET meets the invariant in every state. -/
theorem CtxInv.restarted {p : Params} {c : Ctx} (h : CtxInv p c) :
    CtxInv p { c.enterReset with initFailed := false, timerEnabled := true } :=
  { h with
    cursor := Nat.zero_lt_of_lt h.cursor
    configStreak := Nat.zero_lt_of_lt h.configStreak
    busStreak := Nat.zero_lt_of_lt h.busStreak
    waiting := nofun
    reading := nofun
    timer := ⟨nofun, fun _ => rfl⟩
    drdy := nofun
    failed := nofun }

/-- STOPPED with both event sources masked meets the invariant, whether or not the initialization failed (R147, R158, R159). -/
theorem CtxInv.stopped {p : Params} {c : Ctx} (h : CtxInv p c) (failed : Bool) :
    CtxInv p { c with initFailed := failed, drdyEnabled := false, timerEnabled := false, state := .stopped } :=
  { h with
    waiting := nofun
    reading := nofun
    timer := ⟨nofun, fun hs => absurd rfl hs⟩
    drdy := nofun
    failed := fun _ => rfl }

theorem Worked.tTemp {p : Params} {now : Time} {c d : Ctx} (h : Worked p now c d) :
    d.tTemp = c.tTemp ∨ d.tTemp = some now := by
  rcases h.temperature with ⟨ht, -, -⟩ | ⟨_, ht, -, -⟩
  · exact .inl ht
  · exact .inr ht

/-- The work of a FIFO_READ tick, and of an operation issued alone, keeps the invariant. -/
theorem CtxInv.work {p : Params} {now : Time} {c d : Ctx} (h : CtxInv p c) (hl : c.tLastTick = some now)
    (hw : Worked p now c d) : CtxInv p d where
  cursor := hw.cursor h.cursor
  configStreak := hw.configFailStreak ▸ h.configStreak
  busStreak := hw.busErrorStreak ▸ h.busStreak
  tReset := hw.tLastTick ▸ hw.tReset ▸ h.tReset
  tCfgCheck := by
    rw [hw.tLastTick, hl]
    exact (hl ▸ h.tCfgCheck).kept_or_now hw.tCfgCheck
  tDrdy := by
    rw [hw.tLastTick, hl]
    exact (hl ▸ h.tDrdy).kept_or_now hw.tDrdy
  tTemp := by
    rw [hw.tLastTick, hl]
    exact (hl ▸ h.tTemp).kept_or_now hw.tTemp
  waiting hs := hw.tReset ▸ h.waiting (hw.state ▸ hs)
  reading hs := by
    rcases hw.tDrdy with ht | ht <;> rw [ht]
    · exact h.reading (hw.state ▸ hs)
    · exact Option.some_ne_none now
  timer := by
    rw [hw.timerEnabled, hw.state]
    exact h.timer
  drdy := by
    rw [hw.drdyEnabled, hw.state]
    exact h.drdy
  failed := by
    rw [hw.initFailed, hw.state]
    exact h.failed
  temperature := by
    rcases hw.temperature with ⟨ht, hr, hv⟩ | ⟨raw, ht, hr, hv⟩ <;> rw [ht, hr, hv]
    · exact h.temperature
    · exact ⟨rfl, nofun, nofun⟩

/-- Every arm of a tick keeps the invariant. -/
theorem ArmRan.ctxInv {p : Params} {now : Time} {c d : Ctx} (r : ArmRan p now c d) (h : CtxInv p c)
    (hl : c.tLastTick = some now) : CtxInv p d := by
  have live : ∀ {st : AcqState}, c.state = st → st ≠ .stopped → c.timerEnabled = true ∧ c.initFailed ≠ true :=
    fun hs hne => ⟨h.timer.mpr (hs ▸ hne), fun hf => hne (hs.symm.trans (h.failed hf))⟩
  cases r with
  | kept => exact h
  | resetIssued hs =>
    obtain ⟨ht, hf⟩ := live hs nofun
    exact { h with
      tReset := hl ▸ .now now
      waiting := fun _ => Option.some_ne_none now
      reading := nofun
      timer := ⟨nofun, fun _ => ht⟩
      drdy := fun hd => by simpa [hs] using (h.drdy hd).1
      failed := fun hf' => absurd hf' hf }
  | settled hs =>
    obtain ⟨ht, hf⟩ := live hs nofun
    exact { h with
      configStreak := Nat.zero_lt_of_lt h.configStreak
      waiting := nofun
      reading := nofun
      timer := ⟨nofun, fun _ => ht⟩
      drdy := fun hd => by simpa [hs] using (h.drdy hd).1
      failed := fun hf' => absurd hf' hf }
  | timedOut => exact h.stopped true
  | configured n hs _ =>
    obtain ⟨ht, hf⟩ := live hs nofun
    exact { h with
      configStreak := Nat.zero_lt_of_lt h.configStreak
      busStreak := Nat.zero_lt_of_lt h.busStreak
      tDrdy := hl ▸ .now now
      waiting := nofun
      reading := fun _ => Option.some_ne_none now
      timer := ⟨nofun, fun _ => ht⟩
      drdy := fun hd => ⟨.inr (.inl rfl), hd⟩
      failed := fun hf' => absurd hf' hf }
  | attemptFailed n _ hk => exact { h with configStreak := hk }
  | attemptsExhausted n hs _ => exact { h.enterReset (hs ▸ nofun) with }
  | mismatched d hs hw =>
    obtain ⟨ht, hf⟩ := live hs nofun
    have hd := h.work hl hw
    exact { hd with
      cursor := by
        split
        · exact Nat.zero_lt_of_lt hd.cursor
        · exact hd.cursor
      waiting := nofun
      reading := nofun
      timer := ⟨nofun, fun _ => hw.timerEnabled ▸ ht⟩
      drdy := fun he => ⟨.inl rfl, (hd.drdy he).2⟩
      failed := fun hf' => absurd (hw.initFailed ▸ hf') hf }
  | worked d k hw hk =>
    have hd := h.work hl hw
    exact { hd with
      busStreak := by
        rcases hk with rfl | hk
        · exact Nat.zero_lt_of_lt hd.busStreak
        · exact hk }
  | busErrorsExhausted d hs hw => exact (h.work hl hw).enterReset (hw.state.trans hs ▸ nofun)
  | stopped => exact h.stopped c.initFailed

/-- Every operation keeps the invariant of the context. -/
theorem CtxAfter.ctxInv {i : Instr} {s : State} {d : Ctx} (r : CtxAfter i s d) (h : CtxInv s.cfg s.ctx) :
    CtxInv s.cfg d := by
  cases r with
  | kept => exact h
  | alone hc hw => exact (h.timed (le_clockValue_of_clockRuns hc)).work rfl hw
  | ticked hc hr => exact hr.ctxInv (h.prologue hc) (prologue_tLastTick s)
  | started => exact h.restarted
  | stopRequested hs =>
    exact { h with
      waiting := nofun
      reading := nofun
      timer := ⟨nofun, fun _ => h.timer.mpr hs⟩
      drdy := fun hd => ⟨.inr (.inr rfl), (h.drdy hd).2⟩
      failed := fun hf => absurd (h.failed hf) hs }
  | countersCleared => exact { h.restarted with }

/-- Settles O53: a step is one operation in another environment, which the invariant does not read. -/
theorem stepKeepsTheInvariant : Obligations.StepKeepsTheInvariant := by
  unfold Obligations.StepKeepsTheInvariant
  intro s t hv h
  obtain ⟨-, -, i, e, hx⟩ := step_inv h
  have hc : t.cfg = s.cfg := (exec_framed hx).cfg
  exact ⟨hc ▸ hv.params, hc ▸ (exec_ctxAfter hx).ctxInv hv.ctx⟩

/-! ## Creation (R55) -/

/-- A well-formed parameter set passes every check, since every check is in the list. -/
theorem passes_of_wf {p : Params} (h : p.wf = true) (c : ParamCheck) : p.passes c = true :=
  List.all_eq_true.mp h c (by cases c <;> decide)

theorem StampOk.of_none (last : Option Time) : StampOk last none := nofun

theorem ctxInv_created {p : Params} (h : p.wf = true) : CtxInv p Ctx.created where
  cursor := of_decide_eq_true (passes_of_wf h .tableNotEmpty)
  configStreak := of_decide_eq_true (passes_of_wf h .configAttemptMaxPositive)
  busStreak := of_decide_eq_true (passes_of_wf h .busErrorThresholdPositive)
  tReset := .of_none _
  tCfgCheck := .of_none _
  tDrdy := .of_none _
  tTemp := .of_none _
  waiting := nofun
  reading := nofun
  timer := ⟨nofun, fun _ => rfl⟩
  drdy := nofun
  failed := nofun
  temperature := ⟨rfl, iff_of_true rfl rfl⟩

/-- Settles O54: the checks give the three bounds the invariant asks of creation. -/
theorem resetMeetsTheInvariant : Obligations.ResetMeetsTheInvariant := by
  unfold Obligations.ResetMeetsTheInvariant
  have created : ∀ p : Params, p.wf = true → Inv (State.create p) := fun p hp => ⟨hp, ctxInv_created hp⟩
  exact ⟨created, created Params.vectors (by decide), rfl⟩

/-- Settles O59: the fields of `State.create` are those of R55, whatever the parameters. -/
theorem creationValues : Obligations.CreationValues := by
  unfold Obligations.CreationValues
  exact fun p => ⟨rfl, rfl, rfl, rfl, rfl⟩

/-! ## The accounting counters (R40) -/

theorem ArmRan.counters {p : Params} {now : Time} {c d : Ctx} (r : ArmRan p now c d) : CountersKept c d := by
  cases r with
  | configured n _ hn => exact ⟨hn, (CountersKept.refl c).2⟩
  | attemptFailed n hn _ => exact ⟨hn, (CountersKept.refl c).2⟩
  | attemptsExhausted n _ hn => exact ⟨hn, (CountersKept.refl c).2⟩
  | mismatched d _ hw => exact hw.counters
  | worked d k hw _ => exact hw.counters
  | busErrorsExhausted d _ hw => exact hw.counters
  | _ => exact .refl c

theorem prologue_counters (s : State) : CountersKept s.ctx (prologue s).ctx := by
  rw [prologue_ctx_eq]
  exact .refl s.ctx

/-- No operation but CMD_RESET lowers a counter. -/
theorem CtxAfter.counters {i : Instr} {s : State} {d : Ctx} (r : CtxAfter i s d) (hi : i ≠ .cmdReset) :
    CountersKept s.ctx d := by
  cases r with
  | alone _ hw => exact hw.counters
  | ticked _ hr => exact (prologue_counters s).trans hr.counters
  | countersCleared h => exact absurd h hi
  | _ => exact .refl s.ctx

/-- Settles O57: the arms of a tick and the operations issued alone only count up, and the other operations but CMD_RESET
write no counter. -/
theorem countersAreMonotonic : Obligations.CountersAreMonotonic := by
  unfold Obligations.CountersAreMonotonic
  exact fun _ _ _ h hi => (exec_ctxAfter h).counters hi

/-! ## What a fault adds to the fault set (R53, R178) -/

/-- The state the fault leaves has the fault set `before` with the fault's kind added; `halted` raises no kind. -/
def Fault.Raises (before : List FaultKind) : Fault → Prop
  | .clockRegression _ _ left => ∀ k, k ∈ left.faults ↔ k = .clockRegression ∨ k ∈ before
  | .timestampUnderflow _ _ _ left => ∀ k, k ∈ left.faults ↔ k = .timestampUnderflow ∨ k ∈ before
  | .scratchOverflow _ left => ∀ k, k ∈ left.faults ↔ k = .scratchOverflow ∨ k ∈ before
  | .halted _ => False

theorem drawNow_raises {s : State} {f : Fault} (h : drawNow s = .error f) : f.Raises s.faults := by
  unfold drawNow at h
  split at h
  · cases h
  · split at h <;> cases h
    exact s.clocked.mem_raise_faults .clockRegression

theorem bulkTransfer_raises {cmd : Byte} {n : Nat} {s : State} {f : Fault} (h : bulkTransfer cmd n s = .error f) :
    f.Raises s.faults := by
  unfold bulkTransfer at h
  split at h <;> cases h
  exact s.mem_raise_faults .scratchOverflow

theorem fifoRead_raises {now : Time} {n : Nat} {s : State} {f : Fault} (h : fifoRead now n s = .error f) :
    f.Raises s.faults := by
  obtain ⟨u, hu, rfl | rfl⟩ := fifoRead_error h <;> rw [← hu]
  · exact u.mem_raise_faults .scratchOverflow
  · exact u.mem_raise_faults .timestampUnderflow

theorem runTick_raises {s : State} {f : Fault} (h : runTick s = .error f) : f.Raises s.faults := by
  unfold runTick at h
  split at h
  · rename_i f' hd
    cases h
    exact drawNow_raises (s := { s with shared.tickRequested := false }) hd
  · rename_i now s1 hd
    obtain ⟨-, rfl, rfl⟩ := drawNow_inv hd
    obtain ⟨u, n, hu, rfl | rfl⟩ := runArm_error (s := s) h <;> rw [← hu]
    · exact u.mem_raise_faults .scratchOverflow
    · exact u.mem_raise_faults .timestampUnderflow

/-- An operation issued alone faults by its clock draw or by itself. -/
theorem issueAlone_raises {op : Time → State → Except Fault (OpOutcome × State)} {s : State} {f : Fault}
    (hop : ∀ now u g, op now u = .error g → g.Raises u.faults) (h : issueAlone op s = .fault f) : f.Raises s.faults := by
  unfold issueAlone at h
  split at h
  · split at h
    · rename_i g hd
      cases h
      exact drawNow_raises hd
    · rename_i now u hd
      obtain ⟨-, rfl, rfl⟩ := drawNow_inv hd
      split at h
      · rename_i g hg
        cases h
        exact hop s.clockValue s.timed _ hg
      · cases h
  · cases h

/-- An operation that completes faults by its clock draw alone. -/
theorem issueAlone_total_raises {op : Time → State → OpOutcome × State} {s : State} {f : Fault}
    (h : issueAlone (fun now u => .ok (op now u)) s = .fault f) : f.Raises s.faults :=
  issueAlone_raises (fun _ _ _ hg => by cases hg) h

/-- Every fault of an operation adds its own kind to the fault set and no other, and removes none. -/
theorem exec_raises {i : Instr} {s : State} {f : Fault} (h : exec i s = .fault f) : f.Raises s.faults := by
  cases i with
  | readRegister addr => exact issueAlone_total_raises ((exec_readRegister addr s).symm.trans h)
  | writeRegister addr value => exact issueAlone_total_raises ((exec_writeRegister addr value s).symm.trans h)
  | bulkTransfer cmd length =>
    refine issueAlone_raises (fun now u g hg => ?_) ((exec_bulkTransfer cmd length s).symm.trans h)
    split at hg <;> cases hg
    rename_i hb
    exact bulkTransfer_raises hb
  | configure => exact issueAlone_total_raises ((exec_configure s).symm.trans h)
  | registerCheck => exact issueAlone_total_raises ((exec_registerCheck s).symm.trans h)
  | readFifoCount => exact issueAlone_total_raises ((exec_readFifoCount s).symm.trans h)
  | fifoRead count =>
    refine issueAlone_raises (fun now u g hg => ?_) ((exec_fifoRead count s).symm.trans h)
    split at hg <;> cases hg
    rename_i hf
    exact fifoRead_raises hf
  | fifoReset => exact issueAlone_total_raises ((exec_fifoReset s).symm.trans h)
  | temperatureUpdate => exact issueAlone_total_raises ((exec_temperatureUpdate s).symm.trans h)
  | softReset => exact issueAlone_total_raises ((exec_softReset s).symm.trans h)
  | tick =>
    rw [exec_tick] at h
    split at h
    · unfold taskResult at h
      split at h <;> cases h
      rename_i hr
      exact runTick_raises hr
    · cases h
  | cmdStart =>
    rw [exec_cmdStart] at h
    split at h <;> cases h
  | cmdStop =>
    rw [exec_cmdStop] at h
    split at h <;> cases h
  | drdySignal => cases h
  | timerExpire => cases h
  | cmdReset => cases h
  | cmdPrintDiagnostics => cases h

/-- A state with a raised fault has no further step (R53). -/
theorem step_halted {s : State} (h : s.faults ≠ []) : step s = .fault (.halted s.faults) := by
  unfold step
  split
  · rename_i k rest hf
    rw [hf]
  · rename_i hf
    exact absurd hf h

/-- Settles O8: the frame of a next state, what a fault adds, and the halt. -/
theorem faultsAreFinal : Obligations.FaultsAreFinal := by
  unfold Obligations.FaultsAreFinal
  exact ⟨fun _ => rfl, fun _ _ _ h => (exec_framed h).faults, fun _ _ _ _ _ h => exec_raises h,
    fun _ _ _ _ _ _ h => exec_raises h, fun _ _ _ _ h => exec_raises h, fun _ h => step_halted h⟩

/-! ## Operations issued alone (R86) -/

/-- In HARNESS_MODE with a running clock, a fault of the operation at the drawn time is the fault of the step. -/
theorem issueAlone_fault {op : Time → State → Except Fault (OpOutcome × State)} {s : State} {f : Fault}
    (hm : s.cfg.harnessMode = true) (hc : clockRuns s = true) (h : op s.clockValue s.timed = .error f) :
    issueAlone op s = .fault f := by
  simp [issueAlone, hm, drawNow_ok hc, h]

/-- Settles O15: the length is checked after the clock draw and before the transaction. -/
theorem bulkBeyondScratchFaults : Obligations.BulkBeyondScratchFaults := by
  unfold Obligations.BulkBeyondScratchFaults
  intro cmd length s hm hc hlen
  have hlong : s.timed.cfg.scratchSize < length.toNat := by
    rw [State.timed_cfg, Params.scratchSize_eq]
    omega
  refine ⟨s.timed.raise .scratchOverflow, ?_, by simp, by simp, by simp⟩
  rw [exec_bulkTransfer]
  exact issueAlone_fault hm hc (by simp only [bulkTransfer, if_pos hlong])

/-- An operation that keeps the shared cells keeps them when it is issued alone. -/
theorem issueAlone_kept {op : Time → State → Except Fault (OpOutcome × State)} {s t : State}
    (hop : ∀ now u r v, op now u = .ok (r, v) → SharedKept u v) (h : issueAlone op s = .next t) : SharedKept s t := by
  obtain ⟨-, -, r, u, hu, rfl⟩ := issueAlone_inv h
  exact ((SharedKept.refl s).update (u := s.timed)).trans (hop _ _ _ _ hu).update

theorem issueAlone_total_kept {op : Time → State → OpOutcome × State} {s t : State}
    (hop : ∀ now u, SharedKept u (op now u).2) (h : issueAlone (fun now u => .ok (op now u)) s = .next t) : SharedKept s t :=
  issueAlone_kept (fun now u r v hv => by
    have hv : (op now u).2 = v := congrArg Prod.snd (Except.ok.inj hv)
    exact hv ▸ hop now u) h

/-- A class I or X operation but FIFO_RESET consumes neither shared cell. -/
theorem exec_alone_kept {i : Instr} {s t : State} (hi : classOf i ≠ .boundary) (hne : i ≠ .fifoReset)
    (h : exec i s = .next t) : SharedKept s t := by
  cases i with
  | readRegister addr =>
    exact issueAlone_total_kept (fun _ u => transact_kept u _) ((exec_readRegister addr s).symm.trans h)
  | writeRegister addr value =>
    exact issueAlone_total_kept (fun _ u => transact_kept u _) ((exec_writeRegister addr value s).symm.trans h)
  | bulkTransfer cmd length =>
    refine issueAlone_kept (fun now u r v hv => ?_) ((exec_bulkTransfer cmd length s).symm.trans h)
    split at hv <;> cases hv
    rename_i hb
    exact bulkTransfer_kept hb
  | configure => exact issueAlone_total_kept (fun _ => configure_kept) ((exec_configure s).symm.trans h)
  | registerCheck => exact issueAlone_total_kept (fun _ => registerCheck_kept) ((exec_registerCheck s).symm.trans h)
  | readFifoCount => exact issueAlone_total_kept (fun _ => readFifoCount_kept) ((exec_readFifoCount s).symm.trans h)
  | fifoRead count =>
    refine issueAlone_kept (fun now u r v hv => ?_) ((exec_fifoRead count s).symm.trans h)
    split at hv <;> cases hv
    rename_i hf
    exact fifoRead_kept hf
  | fifoReset => exact absurd rfl hne
  | temperatureUpdate => exact issueAlone_total_kept temperatureUpdate_kept ((exec_temperatureUpdate s).symm.trans h)
  | softReset => exact issueAlone_total_kept (fun _ => softReset_kept) ((exec_softReset s).symm.trans h)
  | _ => exact absurd rfl hi

/-- A tick request survives FIFO_RESET (R134). -/
theorem exec_fifoReset_request {s t : State} (h : exec .fifoReset s = .next t) (hr : s.shared.tickRequested = true) :
    t.shared.tickRequested = true := by
  rw [exec_fifoReset] at h
  obtain ⟨-, -, r, u, hu, rfl⟩ := issueAlone_inv h
  cases hu
  exact fifoReset_request s.timed hr

/-- Settles O11: the clock draw and the state from what an operation issued alone can do, the cells from what it keeps. -/
theorem harnessOperationsKeepTheSequencing : Obligations.HarnessOperationsKeepTheSequencing := by
  unfold Obligations.HarnessOperationsKeepTheSequencing
  intro i s t hi h
  obtain ⟨-, hc, r, u, c, rfl, hd, hw⟩ := exec_alone_inv (P := fun _ => True) hi h fun _ _ => trivial
  rw [State.record_ctx, hd.ctx]
  refine ⟨hc, hw.tLastTick, hw.state, fun hr => ?_, fun hne => (exec_alone_kept hi hne h).cells⟩
  by_cases hf : i = .fifoReset
  · subst hf
    exact exec_fifoReset_request h hr
  · exact (exec_alone_kept hi hf h).cells.2.1 hr

/-! ## The completion of a tick (R25, R141) -/

/-- The clock is late enough for the oldest timestamp of the longest batch (R128). -/
def LateEnough (p : Params) (now : Time) : Prop := (p.maxSamples - 1) * p.sampleIntervalUs ≤ now.toNat

theorem LateEnough.not_underflows {p : Params} {now : Time} {n : Nat} (h : LateEnough p now) (hn : n ≤ p.maxSamples) :
    underflows now n p.sampleIntervalUs = false := by
  have hmul : (n - 1) * p.sampleIntervalUs ≤ (p.maxSamples - 1) * p.sampleIntervalUs :=
    Nat.mul_le_mul_right _ (Nat.sub_le_sub_right hn 1)
  exact decide_eq_false (Nat.not_lt.mpr (hmul.trans h))

theorem parseBlock_completes {now : Time} {n : Nat} {s : State} (h : LateEnough s.cfg now) (hn : n ≤ s.cfg.maxSamples)
    (buf : List Byte) : ∃ r, parseBlock now n buf s = .ok r := by
  unfold parseBlock
  split
  · exact ⟨_, rfl⟩
  · split
    · exact ⟨_, rfl⟩
    · rw [h.not_underflows hn]
      exact ⟨_, rfl⟩

theorem fifoRead_completes {now : Time} {n : Nat} {s : State} (h : LateEnough s.cfg now) (hn : n ≤ s.cfg.maxSamples) :
    ∃ r, fifoRead now n s = .ok r := by
  rw [fifoRead_eq hn]
  split
  · exact ⟨_, rfl⟩
  · exact parseBlock_completes (by rwa [State.transact_cfg]) (by rwa [State.transact_cfg]) _

theorem fifoReadStep_completes {now : Time} {n : Nat} {s : State} (h : LateEnough s.cfg now) (hn : n ≤ s.cfg.maxSamples) :
    ∃ r, fifoReadStep now n s = .ok r := by
  obtain ⟨⟨r, t⟩, hr⟩ := fifoRead_completes h hn
  unfold fifoReadStep
  rw [hr]
  cases r <;> exact ⟨_, rfl⟩

theorem readFifoCount_cfg (s : State) : (readFifoCount s).2.cfg = s.cfg := by
  obtain ⟨_, _, _, _, hd⟩ := readFifoCount_did (P := fun _ => True) s (fun _ => trivial) fun _ => trivial
  exact hd.cfg

/-- A count that is read never exceeds the longest batch (R127). -/
theorem readFifoCount_le {s : State} {n : Nat} (h : (readFifoCount s).1 = .count n) : n ≤ s.cfg.maxSamples := by
  rw [readFifoCount_eq] at h
  split at h
  · cases h
  · exact classifyCount_le h

theorem fifoWork_completes {now : Time} {s : State} (h : LateEnough s.cfg now) : ∃ r, fifoWork now s = .ok r := by
  have hg := readFifoCount_cfg s
  unfold fifoWork
  split
  · exact ⟨_, rfl⟩
  · exact ⟨_, rfl⟩
  · exact ⟨_, rfl⟩
  · rename_i n s1 hc
    have hn : n ≤ s.cfg.maxSamples := readFifoCount_le (by rw [hc])
    rw [hc] at hg
    dsimp only at hg
    exact fifoReadStep_completes (hg ▸ h) (hg ▸ hn)

theorem fifoStep_completes {now : Time} {s : State} (h : LateEnough s.cfg now) (seen : Bool) :
    ∃ r, fifoStep now seen s = .ok r := by
  unfold fifoStep
  split
  · exact fifoWork_completes (by rwa [State.markStall_cfg])
  · exact ⟨_, rfl⟩

theorem armFifoRead_completes {now : Time} {s : State} (hs : s.ctx.state = .fifoRead) (h : LateEnough s.cfg now)
    (seen : Bool) : ∃ t, armFifoRead now seen s = .ok t := by
  have hg : (checkStep now s).2.cfg = s.cfg := (checkStep_work (P := fun _ => True) (fun _ _ => trivial) now s hs).1.cfg
  unfold armFifoRead
  split
  · exact ⟨_, rfl⟩
  · exact ⟨_, rfl⟩
  · rename_i s1 hc
    rw [hc] at hg
    obtain ⟨r, hr⟩ := fifoStep_completes (s := s1) (hg ▸ h) seen
    rw [hr]
    exact ⟨_, rfl⟩

theorem runArm_completes {now : Time} {s : State} (h : LateEnough s.cfg now) (seen : Bool) :
    ∃ t, runArm now seen s = .ok t := by
  unfold runArm
  split <;> rename_i hs
  · exact ⟨_, rfl⟩
  · exact ⟨_, rfl⟩
  · exact ⟨_, rfl⟩
  · exact armFifoRead_completes hs h seen
  · exact ⟨_, rfl⟩
  · exact ⟨_, rfl⟩

/-- The program lines that are left stay in place while an arm runs. -/
theorem runArm_program {s t : State} (h : runArm s.clockValue (drdyPending s) (prologue s) = .ok t) :
    t.env.program = s.env.program := by
  obtain ⟨c, hd⟩ := runArm_did_any h
  rw [hd.program, prologue_env, Env.clocked_program]

/-- Settles O35: every arm completes, and what it leaves is what every arm keeps. -/
theorem tickCompletes : Obligations.TickCompletes := by
  unfold Obligations.TickCompletes
  intro s hr hc hlate
  obtain ⟨t, ht⟩ := runArm_completes (s := prologue s) (now := s.clockValue) hlate (drdyPending s)
  refine ⟨t, by rw [exec_tick_eq hr hc, ht]; rfl, ?_, (runArm_framed ht).cfg, (runArm_framed ht).faults, runArm_program ht⟩
  rw [(runArm_ran ht).tLastTick, prologue_tLastTick]

end Sys2Proof.Machine

/-!
The family 20_memory. The block fetches no instructions (R61), so what a step runs is the next program word: one lemma says what
`nextOperation` answers for a word, one what `step` does with an operation.
-/

namespace Sys2Proof.Machine

/-- A word in front is the next operation, decoded under the state's parameters; the state loses that line alone. -/
theorem nextOperation_of_op {s : State} {w : Word} {rest : List ProgramLine} (h : s.env.program = .op w :: rest) :
    nextOperation s = (decode s.cfg w, { s with env.program := rest }) := by
  simp only [nextOperation, h, takeLine]

/-- Where no fault is raised and the parameters are well-formed, a step is the next operation run in the state it comes with. -/
theorem step_of_nextOperation_ok {s s1 : State} {i : Instr} (hs : s.faults = []) (hp : s.cfg.wf = true)
    (h : nextOperation s = (.ok i, s1)) : step s = exec i s1 := by
  have hc : s.cfg.firstFailing = none := (Params.firstFailing_eq_none_iff s.cfg).mpr hp
  simp only [step, hs, hc, h]

/-- Settles O6: the next operation is the decoded word, and the step runs it. -/
theorem stepRunsTheDecodedWord : Obligations.StepRunsTheDecodedWord := by
  unfold Obligations.StepRunsTheDecodedWord
  intro s w rest i hs hp hw hd
  have hn : nextOperation s = (.ok i, { s with env.program := rest }) := by rw [nextOperation_of_op hw, hd]
  exact step_of_nextOperation_ok hs hp hn

end Sys2Proof.Machine

/-!
The family 30_encoding. The operation word: thirteen rows of R84 have no operand and are decoded alike, so the decoder is read by
five rows and the reserved opcodes. What is refused as a whole follows from the clock draw and from the class of an operation, and
an annotation from the line it stands in.
-/

namespace Sys2Proof

/-! ## The rows of the opcode map (R84) -/

/-- An operation whose row of R84 has no operand. -/
def Instr.isPlain : Instr → Bool
  | .readRegister _ => false
  | .writeRegister _ _ => false
  | .bulkTransfer _ _ => false
  | .fifoRead _ => false
  | _ => true

theorem operands_of_isPlain {i : Instr} (hi : i.isPlain = true) : aOf i = 0#8 ∧ bOf i = 0#16 := by
  cases i with
  | readRegister | writeRegister | bulkTransfer | fifoRead => cases hi
  | _ => exact ⟨rfl, rfl⟩

theorem wellFormed_of_isPlain {i : Instr} (hi : i.isPlain = true) (p : Params) : WellFormed p i = true := by
  cases i with
  | readRegister | writeRegister | bulkTransfer | fifoRead => cases hi
  | _ => rfl

theorem opcodeOf_ne_of_isPlain {i : Instr} (hi : i.isPlain = true) :
    opcodeOf i ≠ 0x01#8 ∧ opcodeOf i ≠ 0x02#8 ∧ opcodeOf i ≠ 0x03#8 ∧ opcodeOf i ≠ 0x21#8 := by
  cases i with
  | readRegister | writeRegister | bulkTransfer | fifoRead => cases hi
  | _ => decide

/-- The rows of R84 as the decoder reads an opcode: the four with operands, the thirteen without, and the reserved opcodes. -/
inductive OpcodeRow (op : Byte) : Prop where
  | readRegister (h : op = 0x01#8)
  | writeRegister (h : op = 0x02#8)
  | bulkTransfer (h : op = 0x03#8)
  | fifoRead (h : op = 0x21#8)
  | plain (i : Instr) (hi : i.isPlain = true) (h : op = opcodeOf i)
  | reserved (h : op.toNat ∉ Machine.knownOpcodes)

/-- Every opcode is in one of the rows. -/
theorem opcodeRow (op : Byte) : OpcodeRow op := by
  by_cases h : op.toNat ∈ Machine.knownOpcodes
  · have hop : ∀ n : Nat, op.toNat = n → op = BitVec.ofNat 8 n := fun n hn => by
      rw [← hn, BitVec.ofNat_toNat, BitVec.setWidth_eq]
    simp only [Machine.knownOpcodes, List.mem_cons, List.not_mem_nil, or_false] at h
    rcases h with h | h | h | h | h | h | h | h | h | h | h | h | h | h | h | h | h <;> replace h := hop _ h
    · exact .readRegister h
    · exact .writeRegister h
    · exact .bulkTransfer h
    · exact .plain .configure rfl h
    · exact .plain .registerCheck rfl h
    · exact .plain .readFifoCount rfl h
    · exact .fifoRead h
    · exact .plain .fifoReset rfl h
    · exact .plain .temperatureUpdate rfl h
    · exact .plain .tick rfl h
    · exact .plain .softReset rfl h
    · exact .plain .drdySignal rfl h
    · exact .plain .timerExpire rfl h
    · exact .plain .cmdStart rfl h
    · exact .plain .cmdStop rfl h
    · exact .plain .cmdReset rfl h
    · exact .plain .cmdPrintDiagnostics rfl h
  · exact .reserved h

/-! ## The decoder row by row (R83 to R85, R87) -/

section
variable {p : Params} {w : Word}

theorem decode_readRegister (h : opcodeField w = 0x01#8) : decode p w =
    if bField w = 0#16 then .ok (.readRegister (aField w)) else .error .nonZeroReserved := by
  simp [decode, h]

theorem decode_writeRegister (h : opcodeField w = 0x02#8) : decode p w =
    if bHigh (bField w) = 0#8 then .ok (.writeRegister (aField w) (bLow (bField w))) else .error .nonZeroReserved := by
  simp [decode, h]

theorem decode_bulkTransfer (h : opcodeField w = 0x03#8) : decode p w =
    if 1 ≤ (bField w).toNat then .ok (.bulkTransfer (aField w) (bField w)) else .error .operandRange := by
  simp [decode, h]

theorem decode_fifoRead (h : opcodeField w = 0x21#8) : decode p w =
    if aField w = 0#8 then
      if 1 ≤ (bField w).toNat ∧ (bField w).toNat ≤ p.maxSamples then .ok (.fifoRead (bField w)) else .error .operandRange
    else .error .nonZeroReserved := by
  simp [decode, h]

theorem decode_plain {i : Instr} (hi : i.isPlain = true) (h : opcodeField w = opcodeOf i) :
    decode p w = decodePlain (aField w) (bField w) i := by
  cases i with
  | readRegister | writeRegister | bulkTransfer | fifoRead => cases hi
  | _ => simp only [decode, h]; rfl

theorem decode_reserved (h : (opcodeField w).toNat ∉ Machine.knownOpcodes) : decode p w = .error .reservedOpcode := by
  unfold decode
  dsimp only
  split
  case h_18 => rfl
  all_goals
    rename_i hop
    rw [hop] at h
    exact absurd h (by decide)
end

/-! ## The decoder and the encoder are inverse (R82 to R85) -/

/-- A word with the fields of an operation is the operation's word. -/
theorem encode_eq_of_fields {w : Word} {i : Instr} (hop : opcodeOf i = opcodeField w) (ha : aOf i = aField w)
    (hb : bOf i = bField w) : encode i = w := by
  rw [encode, hop, ha, hb, append_fields]

theorem decode_encode {p : Params} {i : Instr} (h : WellFormed p i = true) : decode p (encode i) = .ok i := by
  cases i with
  | readRegister addr =>
    rw [decode_readRegister (opcodeField_encode _), aField_encode, bField_encode]
    exact if_pos rfl
  | writeRegister addr value =>
    rw [decode_writeRegister (opcodeField_encode _), aField_encode, bField_encode]
    simp only [aOf, bOf, bHigh_setWidth, bLow_setWidth, if_true]
  | bulkTransfer cmd length =>
    rw [decode_bulkTransfer (opcodeField_encode _), aField_encode, bField_encode]
    exact if_pos (of_decide_eq_true h)
  | fifoRead count =>
    rw [decode_fifoRead (opcodeField_encode _), aField_encode, bField_encode]
    exact (if_pos rfl).trans (if_pos (of_decide_eq_true h))
  | _ =>
    rw [decode_plain rfl (opcodeField_encode _), aField_encode, bField_encode]
    rfl

theorem wellFormed_encode_of_decode {p : Params} {w : Word} {i : Instr} (h : decode p w = .ok i) :
    WellFormed p i = true ∧ encode i = w := by
  cases opcodeRow (opcodeField w) with
  | readRegister hop =>
    rw [decode_readRegister hop] at h
    split at h <;> cases h
    rename_i hb
    exact ⟨rfl, encode_eq_of_fields hop.symm rfl hb.symm⟩
  | writeRegister hop =>
    rw [decode_writeRegister hop] at h
    split at h <;> cases h
    rename_i hb
    exact ⟨rfl, encode_eq_of_fields hop.symm rfl (setWidth_bLow hb)⟩
  | bulkTransfer hop =>
    rw [decode_bulkTransfer hop] at h
    split at h <;> cases h
    rename_i hlen
    exact ⟨decide_eq_true hlen, encode_eq_of_fields hop.symm rfl rfl⟩
  | fifoRead hop =>
    rw [decode_fifoRead hop] at h
    split at h
    · rename_i ha
      split at h <;> cases h
      rename_i hcount
      exact ⟨decide_eq_true hcount, encode_eq_of_fields hop.symm ha.symm rfl⟩
    · cases h
  | plain j hj hop =>
    rw [decode_plain hj hop] at h
    unfold decodePlain at h
    split at h <;> cases h
    rename_i hab
    obtain ⟨ha, hb⟩ := operands_of_isPlain hj
    exact ⟨wellFormed_of_isPlain hj p, encode_eq_of_fields hop.symm (ha.trans hab.1.symm) (hb.trans hab.2.symm)⟩
  | reserved hop =>
    rw [decode_reserved hop] at h
    cases h

/-- Settles O2: the fields of the word are the operation's, and its row reads them back. -/
theorem decodeOfEncode : Obligations.DecodeOfEncode := by
  unfold Obligations.DecodeOfEncode
  exact fun _ _ h => decode_encode h

/-- Settles O3: each row keeps the opcode and both fields. -/
theorem encodeOfDecode : Obligations.EncodeOfDecode := by
  unfold Obligations.EncodeOfDecode
  exact fun _ _ _ h => wellFormed_encode_of_decode h

end Sys2Proof

namespace Sys2Proof.Machine

/-! ## The reasons of the decoder in their order (R85, R87) -/

theorem unusedFieldsZero_of_isPlain {w : Word} {i : Instr} (hi : i.isPlain = true) (h : opcodeField w = opcodeOf i) :
    UnusedFieldsZero w ↔ aField w = 0#8 ∧ bField w = 0#16 := by
  obtain ⟨h1, h2, h3, h21⟩ := opcodeOf_ne_of_isPlain hi
  rw [UnusedFieldsZero, h, if_neg h1, if_neg h2, if_neg h3, if_neg h21]

theorem operandsInRange_of_isPlain {w : Word} {i : Instr} (hi : i.isPlain = true) (h : opcodeField w = opcodeOf i)
    (p : Params) : OperandsInRange p w := by
  obtain ⟨-, -, h3, h21⟩ := opcodeOf_ne_of_isPlain hi
  rw [OperandsInRange, h, if_neg h3, if_neg h21]
  trivial

/-- The checks of R85 after the opcode, each where the ones before it pass: the unused fields, then the operand range. -/
structure ReasonsInOrder (p : Params) (w : Word) : Prop where
  unused : ¬ UnusedFieldsZero w → decode p w = .error .nonZeroReserved
  range : UnusedFieldsZero w → ¬ OperandsInRange p w → decode p w = .error .operandRange
  ok : UnusedFieldsZero w → OperandsInRange p w → ∃ i, decode p w = .ok i

/-- A row whose conditions are the two checks, nested in that order, gives the reasons in that order. -/
theorem ReasonsInOrder.of_eq {p : Params} {w : Word} {u r : Prop} [Decidable u] [Decidable r]
    (hu : UnusedFieldsZero w ↔ u) (hr : OperandsInRange p w ↔ r) (i : Instr)
    (h : decode p w = if u then if r then .ok i else .error .operandRange else .error .nonZeroReserved) :
    ReasonsInOrder p w where
  unused nu := by rw [h, if_neg (mt hu.mpr nu)]
  range yu nr := by rw [h, if_pos (hu.mp yu), if_neg (mt hr.mpr nr)]
  ok yu yr := ⟨i, by rw [h, if_pos (hu.mp yu), if_pos (hr.mp yr)]⟩

theorem reasonsInOrder {p : Params} {w : Word} (h : (opcodeField w).toNat ∈ knownOpcodes) : ReasonsInOrder p w := by
  cases opcodeRow (opcodeField w) with
  | readRegister hop =>
    refine .of_eq (u := bField w = 0#16) (r := True) (by simp [UnusedFieldsZero, hop]) (by simp [OperandsInRange, hop])
      (.readRegister (aField w)) ?_
    rw [decode_readRegister hop, if_true]
  | writeRegister hop =>
    refine .of_eq (u := bHigh (bField w) = 0#8) (r := True) (by simp [UnusedFieldsZero, hop])
      (by simp [OperandsInRange, hop]) (.writeRegister (aField w) (bLow (bField w))) ?_
    rw [decode_writeRegister hop, if_true]
  | bulkTransfer hop =>
    refine .of_eq (u := True) (r := 1 ≤ (bField w).toNat) (by simp [UnusedFieldsZero, hop])
      (by simp [OperandsInRange, hop]) (.bulkTransfer (aField w) (bField w)) ?_
    rw [decode_bulkTransfer hop, if_true]
  | fifoRead hop =>
    exact .of_eq (by simp [UnusedFieldsZero, hop]) (by simp [OperandsInRange, hop, Params.maxSamples]) _
      (decode_fifoRead hop)
  | plain i hi hop =>
    refine .of_eq (r := True) (unusedFieldsZero_of_isPlain hi hop)
      (iff_true_intro (operandsInRange_of_isPlain hi hop p)) i ?_
    rw [decode_plain hi hop, decodePlain, if_true]
  | reserved hop => exact absurd h hop

/-- Settles O4: the reserved opcodes, the reasons of the other rows in order, and what a word that decodes is made of. -/
theorem decoderReasonsInOrder : Obligations.DecoderReasonsInOrder := by
  unfold Obligations.DecoderReasonsInOrder
  intro p w
  refine ⟨decode_reserved, fun h => (reasonsInOrder h).unused, fun h => (reasonsInOrder h).range, fun h hu hr => ?_⟩
  obtain ⟨i, hi⟩ := (reasonsInOrder h).ok hu hr
  obtain ⟨-, rfl⟩ := wellFormed_encode_of_decode hi
  exact ⟨i, hi, (opcodeField_encode i).symm, (aField_encode i).symm, (bField_encode i).symm⟩

/-- An opcode of the map is refused for another reason or not at all. -/
theorem decode_reserved_iff {p : Params} {w : Word} :
    decode p w = .error .reservedOpcode ↔ (opcodeField w).toNat ∉ knownOpcodes := by
  refine ⟨fun h hk => ?_, decode_reserved⟩
  have hrow := reasonsInOrder (p := p) hk
  by_cases hu : UnusedFieldsZero w
  · by_cases hr : OperandsInRange p w
    · obtain ⟨i, hi⟩ := hrow.ok hu hr
      cases h.symm.trans hi
    · cases h.symm.trans (hrow.range hu hr)
  · cases h.symm.trans (hrow.unused hu)

/-- The opcodes outside the map, by the ranges of R87. -/
theorem not_mem_knownOpcodes_iff (c : Nat) : c ∉ knownOpcodes ↔
    c = 0x00 ∨ 0x04 ≤ c ∧ c ≤ 0x0F ∨ 0x12 ≤ c ∧ c ≤ 0x1F ∨ 0x24 ≤ c ∧ c ≤ 0x2F ∨ 0x32 ≤ c ∧ c ≤ 0x3F ∨
      0x42 ≤ c ∧ c ≤ 0x4F ∨ 0x54 ≤ c := by
  simp only [knownOpcodes, List.mem_cons, List.not_mem_nil, or_false]
  omega

/-- Where no fault is raised and the parameters are well-formed, a next operation that does not decode is refused. -/
theorem step_of_nextOperation_error {s s1 : State} {reason : InvalidReason} (hs : s.faults = []) (hp : s.cfg.wf = true)
    (h : nextOperation s = (.error reason, s1)) : step s = .refused (.invalidWord reason) := by
  have hc : s.cfg.firstFailing = none := (Params.firstFailing_eq_none_iff s.cfg).mpr hp
  simp only [step, hs, hc, h]

/-- Settles O5: the reserved opcodes are those outside the map, and a word in front that does not decode is refused. -/
theorem invalidWordsHaveNoStep : Obligations.InvalidWordsHaveNoStep := by
  unfold Obligations.InvalidWordsHaveNoStep
  refine ⟨fun p w => decode_reserved_iff.trans (not_mem_knownOpcodes_iff _), fun s w rest reason hs hp hw hd => ?_⟩
  exact step_of_nextOperation_error hs hp ((nextOperation_of_op hw).trans (congrArg (·, _) hd))

/-! ## Admission by class (R86) -/

/-- Settles O10: an operation of class I or X is one issued on its own, and nothing else is refused. -/
theorem admissionByClass : Obligations.AdmissionByClass := by
  unfold Obligations.AdmissionByClass
  refine fun i s => ⟨fun hi hm => ?_, fun h r hr => ?_⟩
  · obtain ⟨op, hop⟩ := exec_alone hi
    exact (hop s).trans (issueAlone_refused op hm)
  · obtain ⟨hi, hm, -⟩ := exec_refused_inv hr
    rcases h with hb | ht
    · exact hi hb
    · exact Bool.false_ne_true (hm.symm.trans ht)

/-! ## A clock that runs back (R140) -/

/-- What a regressed draw leaves but the environment and the fault set: the context, the outputs and the shared cells. -/
theorem clocked_raise_kept (s : State) (k : FaultKind) :
    (s.clocked.raise k).ctx = s.ctx ∧ (s.clocked.raise k).out = s.out ∧ (s.clocked.raise k).shared = s.shared := by
  simp

section
variable {s : State} {prev : Time}

/-- The request is cleared before the draw (R141). -/
theorem exec_tick_clockRegression (hr : s.shared.tickRequested = true) (hp : s.ctx.tLastTick = some prev)
    (hc : s.clockValue < prev) : exec .tick s = .fault (.clockRegression prev s.clockValue
      ({ s with shared.tickRequested := false }.clocked.raise .clockRegression)) := by
  have hd := drawNow_error (s := { s with shared.tickRequested := false }) hp hc
  rw [exec_tick, if_pos hr, runTick, hd]
  rfl

theorem issueAlone_clockRegression (op : Time → State → Except Fault (OpOutcome × State)) (hm : s.cfg.harnessMode = true)
    (hp : s.ctx.tLastTick = some prev) (hc : s.clockValue < prev) :
    issueAlone op s = .fault (.clockRegression prev s.clockValue (s.clocked.raise .clockRegression)) := by
  rw [issueAlone, if_pos hm, drawNow_error hp hc]
end

/-- Settles O34: the draw comes first in a tick, after the request is cleared, and first in an operation issued alone. -/
theorem clockRegressionFaults : Obligations.ClockRegressionFaults := by
  unfold Obligations.ClockRegressionFaults
  refine fun s prev hp hc => ⟨fun hr => ?_, fun i hi hm => ?_⟩
  · exact ⟨_, exec_tick_clockRegression hr hp hc, clocked_raise_kept _ _⟩
  · obtain ⟨op, hop⟩ := exec_alone hi
    exact ⟨_, (hop s).trans (issueAlone_clockRegression op hm hp hc), clocked_raise_kept _ _⟩

/-! ## Annotations (R107) -/

/-- Taking lines replaces the program, whatever it was. -/
theorem takeLine_program (lines q : List ProgramLine) (e : Env) :
    takeLine lines { e with program := q } = takeLine lines e := by
  induction lines generalizing e with
  | nil => rfl
  | cons line rest ih =>
    cases line with
    | op w => rfl
    | atTime t => exact ih { e with time := some t }
    | bus answers => exact ih { e with answers := e.answers ++ answers }

/-- Two environments from which the same lines are taken alike give the same step. -/
theorem step_congr_env {s : State} {d e : Env} (h : takeLine d.program d = takeLine e.program e) :
    step { s with env := d } = step { s with env := e } := by
  have hn : nextOperation { s with env := d } = nextOperation { s with env := e } := by
    simp only [nextOperation, h]
  simp only [step, hn]

/-- Settles O7: an annotation in front is in force before the next word is taken, a clock value is used up by one draw, and a
transaction takes the first answer. -/
theorem annotationsComeIntoForce : Obligations.AnnotationsComeIntoForce := by
  unfold Obligations.AnnotationsComeIntoForce
  refine fun s rest => ⟨fun t => step_congr_env ?_, fun as => step_congr_env ?_, fun t ht => ?_, fun a as r ha => ?_⟩
  · exact takeLine_program rest (.atTime t :: rest) { s.env with program := rest, time := some t }
  · exact takeLine_program rest (.bus as :: rest) { s.env with program := rest, answers := s.env.answers ++ as }
  · simp [State.clockValue, Env.clocked, ht]
  · refine ⟨s.answer_cons r a as ha, ?_⟩
    simp [Env.answered, ha]

/-! ## The codes (R101, R103, R104) -/

theorem stateOfCode_stateCode (st : AcqState) : stateOfCode (stateCode st) = some st := by
  cases st <;> rfl

theorem BusResult.code_eq (r : BusResult) : r.code = (r.errorClass.map errorCode).getD 0 := by
  cases r <;> rfl

theorem UnitOutcome.code_eq (r : UnitOutcome) : r.code = (r.errorClass.map errorCode).getD 0 := by
  cases r <;> rfl

/-- The code of an outcome is the code of the error class it reports, and 0 where it reports none (R104). -/
theorem OpOutcome.code_eq (r : OpOutcome) : r.code = (r.errorClass.map errorCode).getD 0 := by
  cases r with
  | readRegister r | writeRegister r | bulkTransfer r => exact r.code_eq
  | fifoReset r | temperatureUpdate r | softReset r => exact r.code_eq
  | configure r | registerCheck r | readFifoCount r | fifoRead r => cases r <;> rfl

/-- Settles O60: each number by computation, and the agreement of outcome and error class by the kind of outcome. -/
theorem codesAgree : Obligations.CodesAgree := by
  unfold Obligations.CodesAgree
  refine ⟨by decide, ⟨stateOfCode_stateCode, rfl, rfl⟩, by decide, ?_, fun r => ⟨?_, r.code_eq⟩⟩
  · exact ⟨fun _ => rfl, rfl, rfl, rfl, rfl, rfl, rfl, rfl, fun _ => rfl, rfl, rfl, rfl, rfl, rfl, fun _ => rfl, rfl, rfl, rfl⟩
  · cases r <;> rfl

/-- Settles O1: the decoder computes each word. -/
theorem specWordsDecode : Obligations.SpecWordsDecode := by
  unfold Obligations.SpecWordsDecode
  decide

end Sys2Proof.Machine

/-!
The family 41_bus. The three class X operations are one transaction issued alone, and differ in the request, the recorded outcome
and the encoding: one lemma says what such a transaction leaves of the state, and each operation supplies its request.
-/

namespace Sys2Proof.Machine

/-! ## One transaction issued alone (R86, R111, R116) -/

/-- An operation that, at the drawn time, answers `o` after the one transaction `r` completes: it leaves the drawn time, the
callback steps of the transaction in the shared cells, one event and the outcome, and nothing else. -/
theorem exec_of_transact {i : Instr} {s : State} {op : Time → State → Except Fault (OpOutcome × State)} {r : BusRequest}
    {o : OpOutcome} (hm : s.cfg.harnessMode = true) (hc : clockRuns s = true) (hi : exec i s = issueAlone op s)
    (hop : op s.clockValue s.timed = .ok (o, s.timed.transact r)) :
    ∃ t, exec i s = .next t ∧ t.cfg = s.cfg ∧ t.ctx = { s.ctx with tLastTick := some s.clockValue } ∧
      t.shared = (s.deliver (s.answer r).during).shared ∧
      t.out = { s.out with busLog := s.out.busLog ++ [busEvent r (s.answer r) s.ctx.state], lastOutcome := some o } ∧
      t.faults = s.faults ∧ t.env.program = s.env.program := by
  have hshared : ((s.timed.transact r).record o).shared = (s.deliver (s.answer r).during).shared := by
    rw [State.record_shared, State.transact_shared_eq, State.timed_answer, State.timed_deliver_shared]
  exact ⟨_, hi.trans (issueAlone_next hm hc hop), by simp, by simp, hshared, by simp, by simp, by simp⟩

/-! ## The operations (R113 to R115) -/

/-- Settles O12: its one transaction is the read of `addr`. -/
theorem readRegisterReadsOneByte : Obligations.ReadRegisterReadsOneByte := by
  unfold Obligations.ReadRegisterReadsOneByte
  intro addr s hm hc
  refine ⟨rfl, exec_of_transact (r := .read addr) hm hc (exec_readRegister addr s) ?_⟩
  rw [State.timed_answer]
  rfl

/-- Settles O13: its one transaction is the write of `value` at `addr`, whatever they are, and the word and the event carry the
value zero-extended. -/
theorem writeRegisterWritesOneByte : Obligations.WriteRegisterWritesOneByte := by
  unfold Obligations.WriteRegisterWritesOneByte
  intro addr value s hm hc
  rw [← zext_eq_append]
  refine ⟨rfl, exec_of_transact (r := .write addr value) hm hc (exec_writeRegister addr value s) ?_⟩
  rw [State.timed_answer]
  rfl

/-- Within the scratch buffer a bulk transfer is one transaction (R115). -/
theorem bulkTransfer_of_le {cmd : Byte} {n : Nat} {s : State} (h : n ≤ s.cfg.scratchSize) :
    bulkTransfer cmd n s = .ok ((s.answer (.bulk cmd n)).bulkBytes, s.transact (.bulk cmd n)) :=
  if_neg (Nat.not_lt.mpr h)

/-- The result of a bulk transfer is the one its event records (R57, R104). -/
theorem bulkResult_bulkBytes (a : BusAnswer) (cmd : Byte) (n : Nat) : bulkResult a.bulkBytes = a.result (.bulk cmd n) := by
  cases h : a.error <;> simp [bulkResult, BusAnswer.bulkBytes, BusAnswer.result, h]

/-- The event of a bulk transfer whose length is a 16-bit operand carries that operand. -/
theorem busEvent_bulk_half (cmd : Byte) (length : Half) (a : BusAnswer) (st : AcqState) :
    busEvent (.bulk cmd length.toNat) a st =
      { op := .bulkTransfer, a := cmd, b := length, result := a.result (.bulk cmd length.toNat), state := st } := by
  rw [busEvent_bulk, BitVec.ofNat_toNat, BitVec.setWidth_eq]

/-- Settles O14: the length fits the scratch buffer, so its one transaction is the bulk transfer of that length. -/
theorem bulkTransferMovesItsBytes : Obligations.BulkTransferMovesItsBytes := by
  unfold Obligations.BulkTransferMovesItsBytes
  intro cmd length s hm hc hlen
  have hx := exec_of_transact (r := .bulk cmd length.toNat)
    (o := .bulkTransfer ((s.answer (.bulk cmd length.toNat)).result (.bulk cmd length.toNat))) hm hc
    (exec_bulkTransfer cmd length s) (by
      rw [bulkTransfer_of_le (s := s.timed) hlen, State.timed_answer, ← bulkResult_bulkBytes])
  rw [busEvent_bulk_half] at hx
  exact ⟨rfl, rfl, hx⟩

/-! ## Free answers (R110) -/

/-- With no annotated answer left, the answer is a free one. -/
theorem State.answer_of_nil (s : State) (r : BusRequest) (h : s.env.answers = []) :
    s.answer r = freeAnswer s.env.busDraws r := by
  simp [State.answer, h]

/-- Settles O16: the answer is a free one, and a free one has the length asked for. -/
theorem freeBulkAnswerHasTheLengthAsked : Obligations.FreeBulkAnswerHasTheLengthAsked := by
  unfold Obligations.FreeBulkAnswerHasTheLengthAsked
  intro cmd n s h
  rw [s.answer_of_nil _ h, freeAnswer_block_length]
  rfl

end Sys2Proof.Machine

/-!
The family 42_config_verifier. Each operation of the verifier has one equation for an answer that is a bus error and one for an
answer that is not. From these, Configure is described three ways: the requests it issues and the values it writes (`Applied`),
where its bus error can stand (`BusRun`), and what it makes of answers given in issue order.
-/

namespace Sys2Proof.Machine

/-! ## The value written (R119) -/

theorem configValue_set (e : RegisterConfigEntry) (base : Byte) : configValue e base &&& e.setBits = e.setBits := by
  ext i hi
  simp only [configValue, BitVec.getElem_and, BitVec.getElem_or]
  cases e.setBits[i] <;> simp

theorem configValue_clear {e : RegisterConfigEntry} (h : e.setBits &&& e.clearBits = 0x00#8) (base : Byte) :
    configValue e base &&& e.clearBits = 0x00#8 := by
  ext i hi
  have hbit : (e.setBits &&& e.clearBits)[i] = (0x00#8)[i] := by rw [h]
  simp only [BitVec.getElem_and] at hbit
  simp only [configValue, BitVec.getElem_and, BitVec.getElem_or, BitVec.getElem_not, Bool.and_or_distrib_right, hbit]
  cases e.clearBits[i] <;> simp

theorem configValue_outside (e : RegisterConfigEntry) (base : Byte) :
    configValue e base &&& ~~~(e.setBits ||| e.clearBits) = base &&& ~~~(e.setBits ||| e.clearBits) := by
  ext i hi
  simp only [configValue, BitVec.getElem_and, BitVec.getElem_or, BitVec.getElem_not]
  cases e.setBits[i] <;> cases e.clearBits[i] <;> simp

/-- In ZERO mode the value written is the entry's set bits (R118). -/
@[simp] theorem configValue_zero (e : RegisterConfigEntry) : configValue e 0x00#8 = e.setBits := by simp [configValue]

/-- Settles O17: bit by bit, a disjoint entry's set bits are 1, its clear bits 0 and the others the base's. -/
theorem writeValueSatisfiesEntry : Obligations.WriteValueSatisfiesEntry := by
  unfold Obligations.WriteValueSatisfiesEntry
  intro e base h
  exact ⟨rfl, (satisfied_iff e _).mpr ⟨configValue_set e base, configValue_clear h base⟩, configValue_outside e base⟩

/-! ## One transaction, by its answer -/

theorem BusAnswer.readByte_of_error {a : BusAnswer} (h : a.error = true) : a.readByte = none := by
  simp [BusAnswer.readByte, h]

theorem BusAnswer.readByte_of_ok {a : BusAnswer} (h : a.error = false) : a.readByte = some a.byte := by
  simp [BusAnswer.readByte, h]

theorem readRegister_of_error {addr : Byte} {s : State} (h : (s.answer (.read addr)).error = true) :
    readRegister addr s = (none, s.transact (.read addr)) := by
  rw [readRegister, BusAnswer.readByte_of_error h]

theorem readRegister_of_ok {addr : Byte} {s : State} (h : (s.answer (.read addr)).error = false) :
    readRegister addr s = (some (s.answer (.read addr)).byte, s.transact (.read addr)) := by
  rw [readRegister, BusAnswer.readByte_of_ok h]

/-- A transaction takes the next annotated answer (R107). -/
theorem State.transact_answers {s : State} {a : BusAnswer} {as : List BusAnswer} (h : s.env.answers = a :: as)
    (r : BusRequest) : (s.transact r).env.answers = as := by
  simp [Env.answered, h]

/-! ## One entry of phase 1 (R118) -/

section
variable {e : RegisterConfigEntry} {s : State}

theorem applyEntry_zero (hm : s.cfg.configBaseMode = .zero) : applyEntry e s = writeRegister e.reg e.setBits s := by
  simp [applyEntry, configBase, hm]

theorem applyEntry_rmw_of_error (hm : s.cfg.configBaseMode = .rmw) (h : (s.answer (.read e.reg)).error = true) :
    applyEntry e s = (false, s.transact (.read e.reg)) := by
  simp [applyEntry, configBase, hm, readRegister_of_error h]

theorem applyEntry_rmw_of_ok (hm : s.cfg.configBaseMode = .rmw) (h : (s.answer (.read e.reg)).error = false) :
    applyEntry e s =
      writeRegister e.reg (configValue e (s.answer (.read e.reg)).byte) (s.transact (.read e.reg)) := by
  simp [applyEntry, configBase, hm, readRegister_of_ok h]

theorem applyTable_cons_of_false {es : List RegisterConfigEntry} (h : (applyEntry e s).1 = false) :
    applyTable (e :: es) s = (false, (applyEntry e s).2) := by
  obtain ⟨u, hu⟩ : ∃ u, applyEntry e s = (false, u) := ⟨_, Prod.ext h rfl⟩
  rw [applyTable, hu]

theorem applyTable_cons_of_true {es : List RegisterConfigEntry} (h : (applyEntry e s).1 = true) :
    applyTable (e :: es) s = applyTable es (applyEntry e s).2 := by
  obtain ⟨u, hu⟩ : ∃ u, applyEntry e s = (true, u) := ⟨_, Prod.ext h rfl⟩
  rw [applyTable, hu]

end

theorem applyEntry_cfg (e : RegisterConfigEntry) (s : State) : (applyEntry e s).2.cfg = s.cfg :=
  (applyEntry_did (P := fun _ => True) s fun _ _ _ => ⟨trivial, fun _ => trivial⟩).cfg

theorem applyTable_cfg (es : List RegisterConfigEntry) (s : State) : (applyTable es s).2.cfg = s.cfg :=
  (applyTable_did (P := fun _ => True) es s fun _ _ _ => ⟨trivial, fun _ => trivial⟩).cfg

theorem applyTable_ctx (es : List RegisterConfigEntry) (s : State) : (applyTable es s).2.ctx = s.ctx :=
  (applyTable_did (P := fun _ => True) es s fun _ _ _ => ⟨trivial, fun _ => trivial⟩).ctx

/-! ## One readback (R118, R122) -/

/-- The state after the byte `r` was read for the entry `e`: counted where it does not satisfy the entry (R41). -/
def State.noteReadback (s : State) (e : RegisterConfigEntry) (r : Byte) : State :=
  if satisfied e r then s else s.countBadRegister

section
variable (s : State) (e : RegisterConfigEntry) (r : Byte)

@[simp] theorem State.noteReadback_cfg : (s.noteReadback e r).cfg = s.cfg := by unfold State.noteReadback; split <;> rfl
@[simp] theorem State.noteReadback_shared : (s.noteReadback e r).shared = s.shared := by
  unfold State.noteReadback; split <;> rfl
@[simp] theorem State.noteReadback_out : (s.noteReadback e r).out = s.out := by unfold State.noteReadback; split <;> rfl
@[simp] theorem State.noteReadback_faults : (s.noteReadback e r).faults = s.faults := by
  unfold State.noteReadback; split <;> rfl
@[simp] theorem State.noteReadback_env : (s.noteReadback e r).env = s.env := by unfold State.noteReadback; split <;> rfl

@[simp] theorem State.noteReadback_ctx : (s.noteReadback e r).ctx =
    { s.ctx with cntBadRegister := satInc^[(!satisfied e r).toNat] s.ctx.cntBadRegister } := by
  unfold State.noteReadback
  cases satisfied e r <;> rfl

end

section
variable {e : RegisterConfigEntry} {es : List RegisterConfigEntry} {bad : Nat} {s : State}

theorem verifyTable_cons_of_error (h : (s.answer (.read e.reg)).error = true) :
    verifyTable (e :: es) bad s = (none, s.transact (.read e.reg)) := by
  simp [verifyTable, verifyEntry, readRegister_of_error h]

theorem verifyTable_cons_of_ok (h : (s.answer (.read e.reg)).error = false) :
    verifyTable (e :: es) bad s = verifyTable es (bad + (!satisfied e (s.answer (.read e.reg)).byte).toNat)
      ((s.transact (.read e.reg)).noteReadback e (s.answer (.read e.reg)).byte) := by
  simp only [verifyTable, verifyEntry, readRegister_of_ok h, State.noteReadback]
  cases satisfied e (s.answer (.read e.reg)).byte <;> rfl

end

/-! ## Configure issued alone (R118) -/

section
variable {s : State}

theorem configure_of_false (h : (applyTable s.cfg.table s).1 = false) :
    configure s = (.failBusError, (applyTable s.cfg.table s).2) := by
  obtain ⟨u, hu⟩ : ∃ u, applyTable s.cfg.table s = (false, u) := ⟨_, Prod.ext h rfl⟩
  rw [configure, hu]

theorem configure_of_true (h : (applyTable s.cfg.table s).1 = true) :
    configure s = (configureOutcome (verifyTable s.cfg.table 0 (applyTable s.cfg.table s).2).1,
      (verifyTable s.cfg.table 0 (applyTable s.cfg.table s).2).2) := by
  have hcfg := applyTable_cfg s.cfg.table s
  obtain ⟨u, hu⟩ : ∃ u, applyTable s.cfg.table s = (true, u) := ⟨_, Prod.ext h rfl⟩
  rw [hu] at hcfg
  rw [configure, hu, ← hcfg]

/-- Configure reports a bus error of phase 2 and no other outcome of it as one. -/
theorem configureOutcome_beq_failBusError (n : Option Nat) : (configureOutcome n == .failBusError) = n.isNone := by
  rcases n with _ | _ | n <;> rfl

/-- The only next state of CONFIGURE: Configure from the drawn time on, with its outcome recorded. -/
theorem exec_configure_inv {t : State} (h : exec .configure s = .next t) :
    t = (configure s.timed).2.record (.configure (configure s.timed).1) := by
  rw [exec_configure] at h
  obtain ⟨-, -, r, u, hu, rfl⟩ := issueAlone_inv h
  cases hu
  rfl

end

/-- Settles O18: what Configure can do of the state, from the drawn time on. -/
theorem configureCompletes : Obligations.ConfigureCompletes := by
  unfold Obligations.ConfigureCompletes
  intro s hm hc
  obtain ⟨n, hn, hd⟩ := configure_did (P := fun _ => True) s.timed fun _ _ _ => ⟨trivial, fun _ => trivial⟩
  obtain ⟨evs, hlog, -⟩ := hd.log
  exact ⟨rfl, _, _, n, (exec_configure s).trans (issueAlone_next hm hc rfl), hd.cfg, hn, hd.ctx, rfl,
    configure_batches s.timed, hd.diagnostics, ⟨evs, hlog.symm⟩, hd.faults, hd.program.trans (by simp)⟩

/-! ## Where the bus error of a Configure stands (R118, R188) -/

theorem applyEntry_run (e : RegisterConfigEntry) (s : State) : BusRun s (applyEntry e s).2 (!(applyEntry e s).1) := by
  cases hm : s.cfg.configBaseMode with
  | zero => rw [applyEntry_zero hm]; exact writeRegister_run _ _ s
  | rmw =>
    have hread := transact_run s (.read e.reg)
    cases h : (s.answer (.read e.reg)).error <;> rw [h] at hread
    · rw [applyEntry_rmw_of_ok hm h]
      exact hread.trans (writeRegister_run _ _ _)
    · rw [applyEntry_rmw_of_error hm h]
      exact hread

theorem applyTable_run (es : List RegisterConfigEntry) (s : State) :
    BusRun s (applyTable es s).2 (!(applyTable es s).1) := by
  induction es generalizing s with
  | nil => exact .refl s
  | cons e es ih =>
    have he := applyEntry_run e s
    cases h : (applyEntry e s).1 <;> rw [h] at he
    · rw [applyTable_cons_of_false h]
      exact he
    · rw [applyTable_cons_of_true h]
      exact he.trans (ih _)

theorem verifyTable_run (es : List RegisterConfigEntry) (bad : Nat) (s : State) :
    BusRun s (verifyTable es bad s).2 (verifyTable es bad s).1.isNone := by
  induction es generalizing bad s with
  | nil => exact .refl s
  | cons e es ih =>
    have hread := transact_run s (.read e.reg)
    cases h : (s.answer (.read e.reg)).error <;> rw [h] at hread
    · rw [verifyTable_cons_of_ok h]
      exact (hread.update (by simp)).trans (ih _ _)
    · rw [verifyTable_cons_of_error h]
      exact hread

theorem configure_run (s : State) : BusRun s (configure s).2 ((configure s).1 == .failBusError) := by
  have ha := applyTable_run s.cfg.table s
  cases h : (applyTable s.cfg.table s).1 <;> rw [h] at ha
  · rw [configure_of_false h]
    exact ha
  · rw [configure_of_true h, configureOutcome_beq_failBusError]
    exact ha.trans (verifyTable_run _ _ _)

/-- Settles O21: Configure is a run of transactions that ends at the first one that fails. -/
theorem configureStopsAtTheFirstBusError : Obligations.ConfigureStopsAtTheFirstBusError := by
  unfold Obligations.ConfigureStopsAtTheFirstBusError
  intro s t h
  obtain rfl := exec_configure_inv h
  obtain ⟨new, hlog, hbefore, hlast⟩ := (configure_run s.timed).events
  refine ⟨new, hlog, hbefore, ?_⟩
  rw [← hlast]
  simp

/-! ## What Configure issues, and the values it writes (R118, R120) -/

@[simp] theorem requests_append (l m : List BusEvent) : requests (l ++ m) = requests l ++ requests m := by simp [requests]

@[simp] theorem requests_length (l : List BusEvent) : (requests l).length = l.length := by simp [requests]

/-- The requests of one entry in phase 1. -/
def entryRequests (m : ConfigBaseMode) (e : RegisterConfigEntry) : List (BusOp × Byte) :=
  match m with
  | .rmw => [(.readRegister, e.reg), (.writeRegister, e.reg)]
  | .zero => [(.writeRegister, e.reg)]

/-- The number of transactions of one entry in phase 1. -/
def entryLength (m : ConfigBaseMode) : Nat :=
  match m with
  | .rmw => 2
  | .zero => 1

theorem entryRequests_length (m : ConfigBaseMode) (e : RegisterConfigEntry) :
    (entryRequests m e).length = entryLength m := by cases m <;> rfl

theorem configureRequests_eq (p : Params) : configureRequests p =
    p.table.flatMap (entryRequests p.configBaseMode) ++ p.table.map fun e => (.readRegister, e.reg) := rfl

/-- Of the events from those of entry `e` on, the write of the entry carries its value over the base read before it, or over 0. -/
structure WriteCarries (m : ConfigBaseMode) (e : RegisterConfigEntry) (evs : List BusEvent) : Prop where
  rmw : m = .rmw → ∀ w : BusEvent, evs[1]? = some w → ∃ (r : BusEvent) (base : Byte), evs[0]? = some r ∧
    r.result = .ok [base] ∧ w.op = .writeRegister ∧ w.a = e.reg ∧ w.b = 0x00#8 ++ configValue e base
  zero : m = .zero → ∀ w : BusEvent, evs[0]? = some w → w.op = .writeRegister ∧ w.a = e.reg ∧ w.b = 0x00#8 ++ e.setBits

theorem WriteCarries.nil (m : ConfigBaseMode) (e : RegisterConfigEntry) : WriteCarries m e [] := ⟨nofun, nofun⟩

/-- Events after the entry's own say nothing of its write. -/
theorem WriteCarries.append {m : ConfigBaseMode} {e : RegisterConfigEntry} {evs : List BusEvent} (h : WriteCarries m e evs)
    (hl : entryLength m ≤ evs.length) (more : List BusEvent) : WriteCarries m e (evs ++ more) := by
  constructor <;> rintro rfl
  · replace hl : 2 ≤ evs.length := hl
    rw [List.getElem?_append_left (by omega), List.getElem?_append_left (by omega)]
    exact h.rmw rfl
  · replace hl : 1 ≤ evs.length := hl
    rw [List.getElem?_append_left (by omega)]
    exact h.zero rfl

theorem writeRegister_busLog (addr value : Byte) (s : State) : (writeRegister addr value s).2.out.busLog =
    s.out.busLog ++ [busEvent (.write addr value) (s.answer (.write addr value)) s.ctx.state] := by
  simp [writeRegister]

/-- What one entry of phase 1 adds to the bus history. -/
theorem applyEntry_events (e : RegisterConfigEntry) (s : State) : ∃ evs,
    (applyEntry e s).2.out.busLog = s.out.busLog ++ evs ∧ WriteCarries s.cfg.configBaseMode e evs ∧
      requests evs <+: entryRequests s.cfg.configBaseMode e ∧
      ((applyEntry e s).1 = true → requests evs = entryRequests s.cfg.configBaseMode e) := by
  cases hm : s.cfg.configBaseMode with
  | zero =>
    rw [applyEntry_zero hm]
    refine ⟨_, writeRegister_busLog _ _ _, ⟨nofun, fun _ w hw => ?_⟩, List.prefix_rfl, fun _ => rfl⟩
    cases hw
    exact ⟨rfl, rfl, zext_eq_append _⟩
  | rmw =>
    cases h : (s.answer (.read e.reg)).error with
    | true =>
      rw [applyEntry_rmw_of_error hm h]
      exact ⟨[busEvent (.read e.reg) (s.answer (.read e.reg)) s.ctx.state], by simp, ⟨nofun, nofun⟩,
        ⟨[(.writeRegister, e.reg)], rfl⟩, nofun⟩
    | false =>
      rw [applyEntry_rmw_of_ok hm h]
      have hlog := writeRegister_busLog e.reg (configValue e (s.answer (.read e.reg)).byte) (s.transact (.read e.reg))
      rw [State.transact_out, List.append_assoc] at hlog
      refine ⟨_, hlog, ⟨fun _ w hw => ?_, nofun⟩, List.prefix_rfl, fun _ => rfl⟩
      cases hw
      exact ⟨_, (s.answer (.read e.reg)).byte, rfl, by simp [BusAnswer.result, h], rfl, rfl, zext_eq_append _⟩

/-- `evs` are the events of phase 1 over a table: each entry's own one after another, up to the entry that meets a bus error,
where `done` is false. -/
inductive Applied (m : ConfigBaseMode) : List RegisterConfigEntry → List BusEvent → (done : Bool) → Prop
  | nil : Applied m [] [] true
  | stopped {e es evs} : WriteCarries m e evs → requests evs <+: entryRequests m e → Applied m (e :: es) evs false
  | cons {e es evs new done} : WriteCarries m e evs → requests evs = entryRequests m e → Applied m es new done →
      Applied m (e :: es) (evs ++ new) done

theorem applyTable_applied (es : List RegisterConfigEntry) (s : State) : ∃ new,
    (applyTable es s).2.out.busLog = s.out.busLog ++ new ∧
      Applied s.cfg.configBaseMode es new (applyTable es s).1 := by
  induction es generalizing s with
  | nil => exact ⟨[], (List.append_nil _).symm, .nil⟩
  | cons e es ih =>
    obtain ⟨evs, hlog, hw, hpre, hall⟩ := applyEntry_events e s
    cases h : (applyEntry e s).1 with
    | false =>
      rw [applyTable_cons_of_false h]
      exact ⟨evs, hlog, .stopped hw hpre⟩
    | true =>
      obtain ⟨new, hlog', hrest⟩ := ih (applyEntry e s).2
      rw [applyEntry_cfg] at hrest
      rw [applyTable_cons_of_true h]
      exact ⟨evs ++ new, by rw [hlog', hlog, List.append_assoc], .cons hw (hall h) hrest⟩

section
variable {m : ConfigBaseMode} {es : List RegisterConfigEntry} {new : List BusEvent} {done : Bool}

theorem Applied.requests_prefix (h : Applied m es new done) : requests new <+: es.flatMap (entryRequests m) := by
  induction h with
  | nil => exact List.prefix_rfl
  | stopped _ hpre => exact hpre.trans (List.prefix_append _ _)
  | cons _ heq _ ih =>
    rw [requests_append, heq]
    exact (List.prefix_append_right_inj _).mpr ih

theorem Applied.requests_eq (h : Applied m es new done) (hd : done = true) :
    requests new = es.flatMap (entryRequests m) := by
  induction h with
  | nil => rfl
  | stopped => cases hd
  | cons _ heq _ ih => rw [requests_append, heq, ih hd, List.flatMap_cons]

theorem length_of_requests_eq {e : RegisterConfigEntry} {evs : List BusEvent} (h : requests evs = entryRequests m e) :
    evs.length = entryLength m := by
  rw [← requests_length, h, entryRequests_length]

/-- Whatever phase 2 adds behind a finished phase 1, the write of every entry carries its value. -/
theorem Applied.carries (h : Applied m es new done) (more : List BusEvent) (hmore : done = false → more = []) {i : Nat}
    {e : RegisterConfigEntry} (hi : es[i]? = some e) : WriteCarries m e ((new ++ more).drop (entryLength m * i)) := by
  induction h generalizing i with
  | nil => cases hi
  | @stopped e' es evs hw hpre =>
    rw [hmore rfl, List.append_nil]
    cases i with
    | zero => cases hi; exact hw
    | succ i =>
      have hlen : evs.length ≤ entryLength m := by simpa [entryRequests_length] using hpre.length_le
      rw [List.drop_eq_nil_of_le (hlen.trans (Nat.le_mul_of_pos_right _ i.succ_pos))]
      exact .nil m e
  | cons hw heq _ ih =>
    have hlen := length_of_requests_eq heq
    rw [List.append_assoc]
    cases i with
    | zero => cases hi; exact hw.append hlen.ge _
    | succ i =>
      rw [Nat.mul_succ, Nat.add_comm, ← hlen, List.drop_length_add_append, hlen]
      exact ih hmore hi

end

/-- Phase 2 issues the readbacks in table order, and all of them unless one meets a bus error. -/
theorem verifyTable_requests (es : List RegisterConfigEntry) (bad : Nat) (s : State) : ∃ new,
    (verifyTable es bad s).2.out.busLog = s.out.busLog ++ new ∧
      requests new <+: es.map (fun e => (.readRegister, e.reg)) ∧
      ((verifyTable es bad s).1 ≠ none → requests new = es.map fun e => (.readRegister, e.reg)) := by
  induction es generalizing bad s with
  | nil => exact ⟨[], (List.append_nil _).symm, List.prefix_rfl, fun _ => rfl⟩
  | cons e es ih =>
    cases h : (s.answer (.read e.reg)).error with
    | true =>
      rw [verifyTable_cons_of_error h]
      exact ⟨[busEvent (.read e.reg) (s.answer (.read e.reg)) s.ctx.state], by simp, ⟨_, rfl⟩, fun hn => absurd rfl hn⟩
    | false =>
      rw [verifyTable_cons_of_ok h]
      obtain ⟨new, hlog, hpre, hall⟩ := ih (bad + (!satisfied e (s.answer (.read e.reg)).byte).toNat)
        ((s.transact (.read e.reg)).noteReadback e (s.answer (.read e.reg)).byte)
      refine ⟨busEvent (.read e.reg) (s.answer (.read e.reg)) s.ctx.state :: new, by rw [hlog]; simp,
        List.prefix_cons_inj _ |>.mpr hpre, fun hn => congrArg _ (hall hn)⟩

/-- What Configure adds to the bus history. -/
theorem configure_events (s : State) : ∃ new, (configure s).2.out.busLog = s.out.busLog ++ new ∧
    requests new <+: configureRequests s.cfg ∧
    ((configure s).1 ≠ .failBusError → requests new = configureRequests s.cfg) ∧
    ∀ (i : Nat) (e : RegisterConfigEntry), s.cfg.table[i]? = some e →
      WriteCarries s.cfg.configBaseMode e (new.drop (entryLength s.cfg.configBaseMode * i)) := by
  obtain ⟨new, hlog, happ⟩ := applyTable_applied s.cfg.table s
  rw [configureRequests_eq]
  cases h : (applyTable s.cfg.table s).1 with
  | false =>
    rw [configure_of_false h]
    refine ⟨new, hlog, happ.requests_prefix.trans (List.prefix_append _ _), fun hn => absurd rfl hn, fun i e hi => ?_⟩
    simpa using happ.carries [] (fun _ => rfl) hi
  | true =>
    rw [configure_of_true h]
    obtain ⟨more, hlog', hpre, hall⟩ := verifyTable_requests s.cfg.table 0 (applyTable s.cfg.table s).2
    refine ⟨new ++ more, by rw [hlog', hlog, List.append_assoc], ?_, fun hn => ?_, fun i e hi => ?_⟩
    · rw [requests_append, happ.requests_eq h]
      exact (List.prefix_append_right_inj _).mpr hpre
    · rw [requests_append, happ.requests_eq h, hall fun hnone => hn (by rw [hnone]; rfl)]
    · exact happ.carries more (fun hf => by rw [h] at hf; cases hf) hi

/-- Settles O19: the events of Configure, with the writes of entry `i` read off where the events of the entry begin. -/
theorem configureOrderIsTheTables : Obligations.ConfigureOrderIsTheTables := by
  unfold Obligations.ConfigureOrderIsTheTables
  intro s t h
  obtain rfl := exec_configure_inv h
  obtain ⟨new, hlog, hpre, hall, hcarries⟩ := configure_events s.timed
  refine ⟨new, hlog, hpre, fun hn => hall fun hf => hn (by simp [hf]), fun i e hi => ⟨fun hm => ?_, fun hm => ?_⟩⟩
  · simpa [hm, entryLength, configValue] using (hcarries i e hi).rmw hm
  · simpa [hm, entryLength] using (hcarries i e hi).zero hm

/-! ## Answers given in issue order (R121) -/

/-- With no bus error among the answers for its transactions, one entry of phase 1 succeeds and takes them all. -/
theorem applyEntry_answers {e : RegisterConfigEntry} {s : State} {as q : List BusAnswer} (h : s.env.answers = as ++ q)
    (hl : as.length = entryLength s.cfg.configBaseMode) (hok : ∀ a ∈ as, a.error = false) :
    (applyEntry e s).1 = true ∧ (applyEntry e s).2.env.answers = q := by
  cases hm : s.cfg.configBaseMode with
  | zero =>
    rw [hm] at hl
    obtain ⟨a, rfl⟩ := List.length_eq_one_iff.mp hl
    rw [applyEntry_zero hm]
    exact ⟨by simp [writeRegister, BusAnswer.written, s.answer_cons _ a q h, hok a], State.transact_answers h _⟩
  | rmw =>
    rw [hm] at hl
    obtain ⟨a, b, rfl⟩ := List.length_eq_two.mp hl
    have hrest : (s.transact (.read e.reg)).env.answers = b :: q := State.transact_answers h _
    rw [applyEntry_rmw_of_ok hm (by rw [s.answer_cons _ a (b :: q) h]; exact hok a (by simp))]
    exact ⟨by simp [writeRegister, BusAnswer.written, State.answer_cons _ _ b q hrest, hok b],
      State.transact_answers hrest _⟩

theorem applyTable_answers {es : List RegisterConfigEntry} {s : State} {as q : List BusAnswer}
    (h : s.env.answers = as ++ q) (hl : as.length = entryLength s.cfg.configBaseMode * es.length)
    (hok : ∀ a ∈ as, a.error = false) : (applyTable es s).1 = true ∧ (applyTable es s).2.env.answers = q := by
  induction es generalizing s as with
  | nil =>
    obtain rfl := List.length_eq_zero_iff.mp hl
    exact ⟨rfl, h⟩
  | cons e es ih =>
    obtain ⟨n, hn⟩ : ∃ n, n = entryLength s.cfg.configBaseMode := ⟨_, rfl⟩
    rw [← hn, List.length_cons, Nat.mul_succ] at hl
    have h' : s.env.answers = as.take n ++ (as.drop n ++ q) := by rw [h, ← List.append_assoc, List.take_append_drop]
    obtain ⟨htrue, hrest⟩ := applyEntry_answers (e := e) h' (by rw [List.length_take]; omega)
      fun a ha => hok a (List.mem_of_mem_take ha)
    rw [applyTable_cons_of_true htrue]
    refine ih hrest ?_ fun a ha => hok a (List.mem_of_mem_drop ha)
    rw [List.length_drop, applyEntry_cfg, ← hn]
    omega

/-- How many of the readbacks do not satisfy their entries. -/
def badReadbacks (es : List RegisterConfigEntry) (readbacks : List BusAnswer) : Nat :=
  (List.zip es readbacks).countP fun x => !satisfied x.1 x.2.byte

theorem badReadbacks_cons (e : RegisterConfigEntry) (es : List RegisterConfigEntry) (a : BusAnswer) (as : List BusAnswer) :
    badReadbacks (e :: es) (a :: as) = badReadbacks es as + (!satisfied e a.byte).toNat := by
  simp only [badReadbacks, List.zip_cons_cons, List.countP_cons]
  cases satisfied e a.byte <;> rfl

/-- Phase 2 takes answers that are no bus error one for each entry, counts the bad ones, and goes on with the entries left. -/
theorem verifyTable_answers {es : List RegisterConfigEntry} {s : State} {as q : List BusAnswer} (bad : Nat)
    (h : s.env.answers = as ++ q) (hl : as.length ≤ es.length) (hok : ∀ a ∈ as, a.error = false) :
    ∃ u : State, verifyTable es bad s = verifyTable (es.drop as.length) (bad + badReadbacks es as) u ∧
      u.env.answers = q ∧ u.ctx.cntBadRegister = satInc^[badReadbacks es as] s.ctx.cntBadRegister := by
  induction as generalizing es bad s with
  | nil => exact ⟨s, by simp [badReadbacks], h, by simp [badReadbacks]⟩
  | cons a as ih =>
    obtain _ | ⟨e, es⟩ := es
    · exact absurd hl (by simp)
    · have ha : s.answer (.read e.reg) = a := s.answer_cons _ a (as ++ q) h
      obtain ⟨u, hv, hq, hcnt⟩ := ih (es := es) (s := (s.transact (.read e.reg)).noteReadback e a.byte)
        (bad + (!satisfied e a.byte).toNat) (by simpa using State.transact_answers h (.read e.reg))
        (Nat.le_of_succ_le_succ hl) fun x hx => hok x (List.mem_cons_of_mem a hx)
      refine ⟨u, ?_, hq, ?_⟩
      · rw [verifyTable_cons_of_ok (by rw [ha]; exact hok a (by simp)), ha, hv, badReadbacks_cons, Nat.add_assoc,
          Nat.add_comm (badReadbacks es as)]
        rfl
      · rw [hcnt, badReadbacks_cons, Function.iterate_add_apply]
        simp

theorem configureOutcome_some (n : Nat) : configureOutcome (some n) = if n = 0 then .success else .failMismatch := by
  cases n <;> rfl

/-- Where no answer for phase 1 and none of the first answers for phase 2 is a bus error, Configure ends as phase 2 does from the
entries left. -/
theorem configure_answers {s : State} {phase1 phase2 q : List BusAnswer} (h : s.env.answers = phase1 ++ (phase2 ++ q))
    (hl1 : phase1.length = entryLength s.cfg.configBaseMode * s.cfg.table.length) (hok1 : ∀ a ∈ phase1, a.error = false)
    (hl2 : phase2.length ≤ s.cfg.table.length) (hok2 : ∀ a ∈ phase2, a.error = false) :
    ∃ u : State, (∀ r, verifyTable (s.cfg.table.drop phase2.length) (badReadbacks s.cfg.table phase2) u = r →
        configure s = (configureOutcome r.1, r.2)) ∧ u.env.answers = q ∧
      u.ctx.cntBadRegister = satInc^[badReadbacks s.cfg.table phase2] s.ctx.cntBadRegister := by
  obtain ⟨htrue, hphase2⟩ := applyTable_answers h hl1 hok1
  obtain ⟨u, hv, hq, hcnt⟩ := verifyTable_answers 0 hphase2 hl2 hok2
  rw [Nat.zero_add] at hv
  rw [applyTable_ctx] at hcnt
  exact ⟨u, fun r hr => by rw [configure_of_true htrue, hv, hr], hq, hcnt⟩

/-- Settles O20: after the answers that are no bus error, what is left of phase 2 is the end of the table or the entry whose
readback fails. -/
theorem configureDetectsEveryBadReadback : Obligations.ConfigureDetectsEveryBadReadback := by
  unfold Obligations.ConfigureDetectsEveryBadReadback
  intro s t phase1 phase2 rest h hl1 hok1 ht
  obtain rfl := exec_configure_inv ht
  have hs : s.timed.env.answers = phase1 ++ (phase2 ++ rest) := by simpa using h
  refine ⟨fun hl2 hok2 => ?_, ?_⟩
  · obtain ⟨u, hv, hq, hcnt⟩ := configure_answers hs hl1 hok1 hl2.le hok2
    rw [hv (some (badReadbacks s.cfg.table phase2), u) (by rw [hl2, State.timed_cfg, List.drop_length]; rfl),
      configureOutcome_some]
    exact ⟨rfl, hcnt, hq⟩
  · rintro before failing rfl hlt hok2 hfail
    rw [List.append_assoc] at hs
    obtain ⟨u, hv, hq, hcnt⟩ := configure_answers hs hl1 hok1 hlt.le hok2
    rw [hv (none, u.transact (.read (s.cfg.table[before.length]).reg)) (by
      rw [State.timed_cfg, List.drop_eq_getElem_cons hlt]
      exact verifyTable_cons_of_error (by rw [u.answer_cons _ failing rest hq]; exact hfail))]
    exact ⟨rfl, (congrArg Ctx.cntBadRegister (State.transact_ctx _ _)).trans hcnt, State.transact_answers hq _⟩

/-! ## RegisterCheck (R122, R124) -/

section
variable {s : State} {e : RegisterConfigEntry}

theorem tableEntry_of_getElem? {t : List RegisterConfigEntry} {i : Nat} (h : t[i]? = some e) : tableEntry t i = e := by
  obtain ⟨hi, rfl⟩ := List.getElem?_eq_some_iff.mp h
  exact tableEntry_of_lt hi

theorem registerCheck_of_error (he : s.cfg.table[s.ctx.cursor]? = some e) (h : (s.answer (.read e.reg)).error = true) :
    registerCheck s = (.busErr, s.advanceCursor.transact (.read e.reg)) := by
  rw [registerCheck_eq, tableEntry_of_getElem? he, BusAnswer.readByte_of_error h]

theorem registerCheck_of_ok (he : s.cfg.table[s.ctx.cursor]? = some e) (h : (s.answer (.read e.reg)).error = false) :
    registerCheck s = (if satisfied e (s.answer (.read e.reg)).byte then .matched else .mismatch,
      (s.advanceCursor.transact (.read e.reg)).noteReadback e (s.answer (.read e.reg)).byte) := by
  rw [registerCheck_eq, tableEntry_of_getElem? he, BusAnswer.readByte_of_ok h, State.noteReadback]
  cases hsat : satisfied e (s.answer (.read e.reg)).byte <;> simp [hsat]

/-- The one transaction of RegisterCheck. -/
theorem registerCheck_busLog (he : s.cfg.table[s.ctx.cursor]? = some e) : (registerCheck s).2.out.busLog =
    s.out.busLog ++ [busEvent (.read e.reg) (s.answer (.read e.reg)) s.ctx.state] := by
  cases h : (s.answer (.read e.reg)).error with
  | true => rw [registerCheck_of_error he h]; simp
  | false => rw [registerCheck_of_ok he h]; simp

end

/-- The cells after the read of RegisterCheck issued alone: moving the cursor on changes nothing of what callback steps do. -/
theorem advanceCursor_transact_shared (s : State) (r : BusRequest) :
    (s.timed.advanceCursor.transact r).shared = (s.deliver (s.answer r).during).shared := by
  rw [State.transact_shared_eq, State.advanceCursor_answer, State.timed_answer]
  exact State.deliver_shared_congr _ rfl rfl rfl rfl

/-- Settles O22: by whether the read of the entry at the cursor fails, and, where it does not, whether it satisfies the entry. -/
theorem registerCheckReadsTheEntryAtTheCursor : Obligations.RegisterCheckReadsTheEntryAtTheCursor := by
  unfold Obligations.RegisterCheckReadsTheEntryAtTheCursor
  intro s e hm hc he
  refine ⟨rfl, _, (exec_registerCheck s).trans (issueAlone_next hm hc rfl), ?_⟩
  have hshared := advanceCursor_transact_shared s (.read e.reg)
  cases h : (s.answer (.read e.reg)).error with
  | true =>
    rw [registerCheck_of_error (s := s.timed) he (by rw [State.timed_answer]; exact h)]
    simp [hshared, BusAnswer.result, h]
  | false =>
    rw [registerCheck_of_ok (s := s.timed) he (by rw [State.timed_answer]; exact h)]
    cases hsat : satisfied e (s.answer (.read e.reg)).byte <;> simp [hshared, BusAnswer.result, h, hsat]

/-- `n` checks from a cursor below the length of the table read the first `n` entries of the table rotated to the cursor. -/
theorem registerCheck_iterate {s : State} (hc : s.ctx.cursor < s.cfg.table.length) {n : Nat}
    (hn : n ≤ s.cfg.table.length) :
    let t := (fun u : State => (registerCheck u).2)^[n] s
    t.cfg = s.cfg ∧ t.ctx.cursor = (s.ctx.cursor + n) % s.cfg.table.length ∧
      requests t.out.busLog = requests s.out.busLog ++
        ((s.cfg.table.rotate s.ctx.cursor).take n).map fun e => (.readRegister, e.reg) := by
  induction n with
  | zero => exact ⟨rfl, (Nat.mod_eq_of_lt hc).symm, by simp⟩
  | succ n ih =>
    obtain ⟨hcfg, hcur, hreq⟩ := ih (by omega)
    simp only [Function.iterate_succ_apply']
    generalize (fun u : State => (registerCheck u).2)^[n] s = u at hcfg hcur hreq
    obtain ⟨e, hrot⟩ : ∃ e, (s.cfg.table.rotate s.ctx.cursor)[n]? = some e :=
      ⟨_, List.getElem?_eq_getElem (by simpa using hn)⟩
    have he : u.cfg.table[u.ctx.cursor]? = (s.cfg.table.rotate s.ctx.cursor)[n]? := by
      rw [hcfg, hcur, List.getElem?_rotate hn, Nat.add_comm]
    obtain ⟨m, -, hd⟩ := registerCheck_did (P := fun _ => True) u fun _ => trivial
    refine ⟨hd.cfg.trans hcfg, ?_, ?_⟩
    · rw [hd.ctx, hcfg, hcur, Nat.mod_add_mod, Nat.add_assoc]
    · rw [registerCheck_busLog (he.trans hrot), requests_append, hreq, List.take_add_one, hrot]
      simp [requests]

/-- Settles O23: as many checks as entries read the whole rotated table and bring the cursor round. -/
theorem roundRobinCoversTheTable : Obligations.RoundRobinCoversTheTable := by
  unfold Obligations.RoundRobinCoversTheTable
  intro s hc
  obtain ⟨-, hcur, hreq⟩ := registerCheck_iterate hc le_rfl
  refine ⟨?_, by rw [hcur, Nat.add_mod_right, Nat.mod_eq_of_lt hc]⟩
  rw [hreq, List.take_of_length_le (by simp)]

end Sys2Proof.Machine

/-!
The family 43_fifo_pipeline. Every operation appends batches the consumer may see and no other. What each operation of the
pipeline does when issued alone follows from the answers to its transactions, and the batch of a block from the tags of its
frames.
-/

namespace Sys2Proof.Machine

/-! ## The batches an operation hands over (R50, R170, R180) -/

/-- The batches of `t` are those of `s` and then batches the consumer may see. -/
def EmitsOk (s t : State) : Prop := ∃ bs, t.out.batches = s.out.batches ++ bs ∧ ∀ b ∈ bs, BatchOk s.cfg b

/-- A silent operation. -/
theorem EmitsOk.of_eq {s t : State} (h : t.out.batches = s.out.batches) : EmitsOk s t := ⟨[], by simpa using h, nofun⟩

theorem exec_emitsOk {i : Instr} {s t : State} (h : exec i s = .next t) : EmitsOk s t := by
  by_cases hi : classOf i = .boundary
  case neg =>
    obtain ⟨-, -, r, u, c, rfl, hd, -⟩ := exec_alone_inv (P := fun _ => True) hi h fun _ _ => trivial
    exact hd.batches
  cases i with
  | tick =>
    rcases exec_tick_inv h with ⟨-, rfl⟩ | ⟨-, -, ha⟩
    · exact .of_eq rfl
    · obtain ⟨c, hd⟩ := runArm_did_any ha
      exact hd.batches
  | drdySignal =>
    cases h
    exact .of_eq (by simp)
  | timerExpire =>
    cases h
    exact .of_eq (by simp)
  | cmdStart =>
    rw [exec_cmdStart] at h
    split at h <;> cases h <;> exact .of_eq rfl
  | cmdStop =>
    rw [exec_cmdStop] at h
    split at h <;> cases h <;> exact .of_eq rfl
  | cmdReset =>
    cases h
    exact .of_eq rfl
  | cmdPrintDiagnostics =>
    cases h
    exact .of_eq rfl
  | _ => cases hi

/-- Settles O56: nothing has been handed over at creation, and the one operation of a step appends batches the consumer may see
alone. -/
theorem consumerSeesValidBatches : Obligations.ConsumerSeesValidBatches := by
  unfold Obligations.ConsumerSeesValidBatches
  refine ⟨fun _ => nofun, fun s t _ hs h => ?_⟩
  obtain ⟨-, -, i, e, hx⟩ := step_inv h
  obtain ⟨bs, happ, hok⟩ := exec_emitsOk hx
  have hcfg : t.cfg = s.cfg := (exec_framed hx).cfg
  intro b hb
  rw [happ, List.mem_append] at hb
  rw [hcfg]
  exact hb.elim (hs b) (hok b)

/-! ## FIFO_RESET (R134) -/

/-- Settles O30: by whether the flush write fails. -/
theorem fifoResetFlushes : Obligations.FifoResetFlushes := by
  unfold Obligations.FifoResetFlushes
  intro s hm hc
  refine ⟨rfl, _, (exec_fifoReset s).trans (issueAlone_next hm hc rfl), ?_⟩
  rw [fifoReset_eq, State.timed_answer, State.timed_cfg]
  cases h : (s.answer (.write s.cfg.regCmdFlush s.cfg.valFlush)).error <;>
    simp [h, State.transact_shared_eq, BusAnswer.result]

/-! ## A register pair, and the two operations that read one (R96, R126, R136) -/

/-- A register pair from the answers to its two reads (R96). -/
theorem readPair_eq (lo hi : Byte) (s : State) :
    let l := s.answer (.read lo)
    let s1 := s.transact (.read lo)
    let h := s1.answer (.read hi)
    readPair lo hi s = (if l.error || h.error then none else some (pair l.byte h.byte),
      if l.error then s1 else s1.transact (.read hi)) := by
  intro l s1 h
  cases hl : l.error
  · rw [readPair_hi hl]
    rfl
  · rw [readPair_lo hl]
    rfl

/-- The counters after a classification, by the raw count (R126). -/
theorem State.countOutcome_classifyCount_ctx (s : State) (p : Params) (raw : Nat) :
    (s.countOutcome (classifyCount p raw)).ctx = { s.ctx with
      cntFifoOverflow := if p.devFifoCap * p.fifoCountDiv < raw then satInc s.ctx.cntFifoOverflow
        else s.ctx.cntFifoOverflow
      cntFifoEmpty := if raw ≤ p.devFifoCap * p.fifoCountDiv ∧ raw / p.fifoCountDiv = 0 then satInc s.ctx.cntFifoEmpty
        else s.ctx.cntFifoEmpty } := by
  unfold classifyCount
  by_cases ho : p.devFifoCap * p.fifoCountDiv < raw
  · simp [ho, Nat.not_le.mpr ho, State.countOutcome]
  · by_cases he : raw / p.fifoCountDiv = 0 <;> simp [ho, he, Nat.not_lt.mp ho, State.countOutcome]

/-- Settles O24: by which of the two reads fails, and, where none does, by the classification of the pair. -/
theorem readFifoCountClassifies : Obligations.ReadFifoCountClassifies := by
  unfold Obligations.ReadFifoCountClassifies
  intro s hm hc lo s1 hi raw samples failed
  refine ⟨rfl, _, (exec_readFifoCount s).trans (issueAlone_next hm hc rfl), ?_⟩
  have hpair : readPair s.timed.cfg.regFifoLenLo s.timed.cfg.regFifoLenHi s.timed =
      (if failed then none else some (pair lo.byte hi.byte),
        if lo.error then s1 else s1.transact (.read s.cfg.regFifoLenHi)) := by
    rw [readPair_eq, State.timed_answer]
    rfl
  have hraw : (pair lo.byte hi.byte).toNat = raw := pair_toNat _ _
  have hclass : (if s.cfg.devFifoCap * s.cfg.fifoCountDiv < raw then .overflow
      else if raw / s.cfg.fifoCountDiv = 0 then .empty
      else .count (min (raw / s.cfg.fifoCountDiv) (min s.cfg.devFifoCap s.cfg.consBatchCap))) =
      classifyCount s.cfg raw := rfl
  rw [readFifoCount_eq, hpair]
  cases h1 : lo.error with
  | true => simp [s1, failed, h1]
  | false =>
    cases h2 : hi.error with
    | true => simp [s1, failed, h1, h2]
    | false =>
      simp [hraw, hclass, State.countOutcome_classifyCount_ctx, s1, failed, samples, h1, h2, -Nat.div_eq_zero_iff]

/-- Settles O31: by which of the two reads fails. -/
theorem temperatureUpdateStoresThePair : Obligations.TemperatureUpdateStoresThePair := by
  unfold Obligations.TemperatureUpdateStoresThePair
  intro s hm hc lo s1 hi failed
  refine ⟨rfl, _, pair lo.byte hi.byte, (exec_temperatureUpdate s).trans (issueAlone_next hm hc rfl), pair_toNat _ _, ?_⟩
  have hpair : readPair s.timed.cfg.regTempLo s.timed.cfg.regTempHi s.timed =
      (if failed then none else some (pair lo.byte hi.byte),
        if lo.error then s1 else s1.transact (.read s.cfg.regTempHi)) := by
    rw [readPair_eq, State.timed_answer]
    rfl
  rw [temperatureUpdate_eq, hpair]
  cases h1 : lo.error with
  | true => simp [s1, failed, h1]
  | false => cases h2 : hi.error <;> simp [s1, failed, h1, h2]

/-! ## The count law (R127) -/

/-- The samples a count reports; Empty is read as 0. -/
def CountOutcome.samples : CountOutcome → Nat
  | .count n => n
  | .empty => 0
  | .overflow => 0
  | .busErr => 0

section
variable {p : Params} {raw : Nat}

theorem classifyCount_of_gt (h : p.devFifoCap * p.fifoCountDiv < raw) : classifyCount p raw = .overflow := if_pos h

theorem classifyCount_of_le (h : raw ≤ p.devFifoCap * p.fifoCountDiv) : classifyCount p raw =
    if raw / p.fifoCountDiv = 0 then .empty else .count (min (raw / p.fifoCountDiv) p.maxSamples) :=
  if_neg (Nat.not_lt.mpr h)

theorem classifyCount_samples (h : raw ≤ p.devFifoCap * p.fifoCountDiv) :
    (classifyCount p raw).samples = min (raw / p.fifoCountDiv) p.maxSamples := by
  rw [classifyCount_of_le h]
  split
  case isTrue hz => rw [hz, Nat.zero_min]; rfl
  case isFalse => rfl

end

/-! ## A tick that finds Overflow (R127, R155) -/

/-- `t` is reached from `s` with no bulk transfer. -/
def NoBulk (s t : State) : Prop := ∃ new, t.out.busLog = s.out.busLog ++ new ∧ ∀ e ∈ new, e.op ≠ .bulkTransfer

theorem NoBulk.trans {s t u : State} (h : NoBulk s t) (k : NoBulk t u) : NoBulk s u := by
  obtain ⟨new, hlog, hnew⟩ := h
  obtain ⟨more, hlog', hmore⟩ := k
  refine ⟨new ++ more, by rw [hlog', hlog, List.append_assoc], fun e he => ?_⟩
  exact (List.mem_append.mp he).elim (hnew e) (hmore e)

theorem NoBulk.of_eq {s t : State} (h : t.out.busLog = s.out.busLog) : NoBulk s t := ⟨[], by simpa using h, nofun⟩

theorem Did.noBulk {s t : State} {c : Ctx} (h : Did (fun e => e.op ≠ .bulkTransfer) s c t) : NoBulk s t := h.log

theorem checkStep_noBulk (now : Time) (s : State) : NoBulk s (checkStep now s).2 := by
  unfold checkStep
  split
  · obtain ⟨_, _, hd⟩ := registerCheck_did (P := fun e => e.op ≠ .bulkTransfer) (s.noteCfgCheck now) fun _ => nofun
    exact hd.noBulk
  · exact .of_eq rfl

theorem readFifoCount_noBulk (s : State) : NoBulk s (readFifoCount s).2 := by
  obtain ⟨_, _, _, _, hd⟩ := readFifoCount_did (P := fun e => e.op ≠ .bulkTransfer) s (fun _ => nofun) fun _ => nofun
  exact hd.noBulk

theorem temperatureStep_noBulk (now : Time) (busErr : Bool) (s : State) :
    NoBulk s (temperatureStep now busErr s).2 := by
  have hupdate : NoBulk s (temperatureUpdate now s).2 := by
    rcases temperatureUpdate_did (P := fun e => e.op ≠ .bulkTransfer) now s (fun _ => nofun) fun _ => nofun with
      ⟨hd, -⟩ | ⟨_, hd, -⟩ <;> exact hd.noBulk
  unfold temperatureStep
  split
  · split <;> rename_i h <;> rw [h] at hupdate <;> exact hupdate
  · exact .of_eq rfl

theorem finishFifoRead_noBulk (now : Time) (busErr : Bool) (s : State) : NoBulk s (finishFifoRead now busErr s) :=
  (temperatureStep_noBulk now busErr s).trans (.of_eq (by rw [finishFifoRead, accountBusError_out]))

/-- The one transaction of a flush. -/
theorem flushStep_busLog (s : State) : (flushStep s).2.out.busLog = s.out.busLog ++
    [busEvent (.write s.cfg.regCmdFlush s.cfg.valFlush) (s.answer (.write s.cfg.regCmdFlush s.cfg.valFlush))
      s.ctx.state] := by
  rw [flushStep, fifoReset_eq]
  cases (s.answer (.write s.cfg.regCmdFlush s.cfg.valFlush)).error <;> simp

theorem flushStep_noBulk (s : State) : NoBulk s (flushStep s).2 := ⟨_, flushStep_busLog s, by simp⟩

section
variable {now : Time} {s : State}

theorem fifoWork_of_overflow (h : (readFifoCount s).1 = .overflow) :
    fifoWork now s = .ok (flushStep (readFifoCount s).2) := by
  obtain ⟨u, hu⟩ : ∃ u, readFifoCount s = (.overflow, u) := ⟨_, Prod.ext h rfl⟩
  rw [fifoWork, hu]

/-- A count that is no bus error has read both registers (R126). -/
theorem readFifoCount_requests (h : (readFifoCount s).1 ≠ .busErr) :
    requests (readFifoCount s).2.out.busLog = requests s.out.busLog ++
      [(.readRegister, s.cfg.regFifoLenLo), (.readRegister, s.cfg.regFifoLenHi)] := by
  rw [readFifoCount_eq, readPair_eq] at h ⊢
  cases hl : (s.answer (.read s.cfg.regFifoLenLo)).error with
  | true => simp [hl] at h
  | false =>
    cases hh : ((s.transact (.read s.cfg.regFifoLenLo)).answer (.read s.cfg.regFifoLenHi)).error with
    | true => simp [hl, hh] at h
    | false => simp [requests]

theorem fifoWork_overflow_requests {busErr : Bool} {t : State} (h : (readFifoCount s).1 = .overflow)
    (hw : fifoWork now s = .ok (busErr, t)) : requests t.out.busLog = requests s.out.busLog ++
      [(.readRegister, s.cfg.regFifoLenLo), (.readRegister, s.cfg.regFifoLenHi), (.writeRegister, s.cfg.regCmdFlush)] := by
  rw [fifoWork_of_overflow h] at hw
  obtain rfl : (flushStep (readFifoCount s).2).2 = t := congrArg Prod.snd (Except.ok.inj hw)
  rw [flushStep_busLog, requests_append, readFifoCount_requests (by rw [h]; nofun), readFifoCount_cfg]
  simp [requests]

end

/-- A FIFO_READ tick whose count is Overflow issues the register check, the count reads, the flush write and the temperature
reads, as far as each runs (R151). -/
theorem exec_tick_overflow_noBulk {s t : State} (hr : s.shared.tickRequested = true) (hs : s.ctx.state = .fifoRead)
    (hm : (checkStep s.clockValue (prologue s)).1 = .matched) (hw : fifoWorkAt s = true)
    (ho : (readFifoCount (workStart s)).1 = .overflow) (h : exec .tick s = .next t) : NoBulk s t := by
  rcases exec_tick_inv h with ⟨hn, -⟩ | ⟨-, -, ha⟩
  · rw [hr] at hn
    cases hn
  have harm : runArm s.clockValue (drdyPending s) (prologue s) =
      .ok (finishFifoRead s.clockValue (flushStep (readFifoCount (workStart s)).2).1
        (flushStep (readFifoCount (workStart s)).2).2) := by
    simp only [runArm, prologue_state, hs, armFifoRead_matched hm, afterWork, hw, if_true, fifoWork_of_overflow ho]
    rfl
  obtain rfl := Except.ok.inj (harm.symm.trans ha)
  have hcheck : NoBulk s (workStart s) := checkStep_noBulk s.clockValue (prologue s)
  exact ((hcheck.trans (readFifoCount_noBulk _)).trans (flushStep_noBulk _)).trans (finishFifoRead_noBulk _ _ _)

/-- Settles O25: a count up to the capacity is the minimum of two non-decreasing terms, and Overflow leads to the flush alone. -/
theorem countLaw : Obligations.CountLaw := by
  unfold Obligations.CountLaw
  intro p hp value
  obtain ⟨-, -, hdev, hcons, -⟩ := p.wf_iff.mp hp
  refine ⟨fun _ => classifyCount_of_gt, fun raw hraw => ?_, fun raw raw' hle hraw' => ?_, ?_, ?_⟩
  · cases h : classifyCount p raw with
    | count n => exact .inr ⟨n, rfl, classifyCount_pos h (Nat.le_min.mpr ⟨hdev, hcons⟩), classifyCount_le h⟩
    | empty => exact .inl rfl
    | overflow =>
      rw [classifyCount_of_le hraw] at h
      split at h <;> cases h
    | busErr => exact absurd h (classifyCount_ne_busErr p raw)
  · show (classifyCount p raw).samples ≤ (classifyCount p raw').samples
    rw [classifyCount_samples (hle.trans hraw'), classifyCount_samples hraw']
    exact min_le_min_right _ (Nat.div_le_div_right hle)
  · rintro now s t busErr rfl ho hw
    exact fifoWork_overflow_requests ho hw
  · rintro s t rfl hr hs hm hw ho h
    exact exec_tick_overflow_noBulk hr hs hm hw ho h

/-! ## The batch of a block (R128, R130) -/

/-- The batches emitted for the validated frames of a block of `n` frames: one, or none where there is no validated frame. -/
def batchesOf (p : Params) (t : Time) (n : Nat) (frames : List RawSample) : List Batch :=
  if frames = [] then [] else [batchOf p t n frames]

@[simp] theorem scanOutcome_eq_ok_iff (bad : Option Nat) : scanOutcome bad = .ok ↔ bad = none := by
  cases bad <;> simp [scanOutcome]

section
variable {t : Time} {n : Nat} {buf : List Byte} {s : State}

theorem parseBlock_of_length_ne (h : buf.length ≠ blockLength n) :
    parseBlock t n buf s = .ok (.badLength, s.countBadTransfer) := if_pos h

/-- A whole block, at a time late enough for the oldest timestamp where a frame validates. -/
theorem parseBlock_of_late (hlen : buf.length = blockLength n)
    (hlate : (scanFrames s.cfg buf n 0).1 ≠ [] → (n - 1) * s.cfg.sampleIntervalUs ≤ t.toNat) :
    ∃ u, parseBlock t n buf s = .ok (scanOutcome (scanFrames s.cfg buf n 0).2, u) ∧
      u.out = { s.out with batches := s.out.batches ++ batchesOf s.cfg t n (scanFrames s.cfg buf n 0).1 } ∧
      u.ctx = (s.countScan (scanFrames s.cfg buf n 0).2).ctx ∧ u.cfg = s.cfg ∧ u.shared = s.shared ∧
      u.faults = s.faults ∧ u.env = s.env := by
  rw [parseBlock, if_neg (not_not.mpr hlen)]
  rcases h : scanFrames s.cfg buf n 0 with ⟨_ | ⟨r, rest⟩, bad⟩ <;> rw [h] at hlate
  · exact ⟨_, rfl, by simp [batchesOf], rfl, by simp⟩
  · have hun : underflows t n s.cfg.sampleIntervalUs = false :=
      decide_eq_false (Nat.not_lt.mpr (hlate (List.cons_ne_nil r rest)))
    simp only [hun, Bool.false_eq_true, if_false]
    exact ⟨_, rfl, by simp [batchesOf], rfl, by simp⟩

/-- A whole block with a frame that validates, at a time too early for the oldest timestamp. -/
theorem parseBlock_of_early (hlen : buf.length = blockLength n) (hne : (scanFrames s.cfg buf n 0).1 ≠ [])
    (hearly : t.toNat < (n - 1) * s.cfg.sampleIntervalUs) :
    parseBlock t n buf s = .error (.timestampUnderflow t n s.cfg.sampleIntervalUs
      ((s.countScan (scanFrames s.cfg buf n 0).2).raise .timestampUnderflow)) := by
  have hun : underflows t n s.cfg.sampleIntervalUs = true := decide_eq_true hearly
  rw [parseBlock, if_neg (not_not.mpr hlen)]
  rcases h : scanFrames s.cfg buf n 0 with ⟨_ | ⟨r, rest⟩, bad⟩
  · exact absurd (by rw [h]) hne
  · simp only [hun, if_true]

end

/-! ## FIFO_READ issued alone (R128) -/

/-- The state after the one transaction of a FIFO_READ of `n` frames issued alone. -/
def State.drained (s : State) (n : Nat) : State := s.timed.transact (.bulk s.cfg.regFifoData (2 + n * 7))

section
variable (s : State) (n : Nat)

@[simp] theorem State.drained_cfg : (s.drained n).cfg = s.cfg := by simp [State.drained]
@[simp] theorem State.drained_ctx : (s.drained n).ctx = { s.ctx with tLastTick := some s.clockValue } := by
  simp [State.drained]
@[simp] theorem State.drained_shared : (s.drained n).shared =
    (s.deliver (s.answer (.bulk s.cfg.regFifoData (2 + n * 7))).during).shared := by
  simp [State.drained, State.transact_shared_eq]
@[simp] theorem State.drained_out : (s.drained n).out = { s.out with
    busLog := s.out.busLog ++
      [busEvent (.bulk s.cfg.regFifoData (2 + n * 7)) (s.answer (.bulk s.cfg.regFifoData (2 + n * 7))) s.ctx.state] } := by
  simp [State.drained]
@[simp] theorem State.drained_faults : (s.drained n).faults = s.faults := by simp [State.drained]
@[simp] theorem State.drained_program : (s.drained n).env.program = s.env.program := by simp [State.drained]

end

section
variable {s : State} {n : Nat} {count : Half}

theorem fifoRead_timed_of_error (hn : n ≤ s.cfg.maxSamples)
    (h : (s.answer (.bulk s.cfg.regFifoData (2 + n * 7))).error = true) :
    fifoRead s.clockValue n s.timed = .ok (.busErr, (s.drained n).countBadTransfer) := by
  rw [fifoRead_eq (s := s.timed) hn, State.timed_answer]
  exact if_pos h

theorem fifoRead_timed_of_ok (hn : n ≤ s.cfg.maxSamples)
    (h : (s.answer (.bulk s.cfg.regFifoData (2 + n * 7))).error = false) :
    fifoRead s.clockValue n s.timed =
      parseBlock s.clockValue n (s.answer (.bulk s.cfg.regFifoData (2 + n * 7))).block (s.drained n) := by
  rw [fifoRead_eq (s := s.timed) hn, State.timed_answer]
  exact if_neg (ne_true_of_eq_false h)

theorem exec_fifoRead_next {r : FifoReadOutcome} {u : State} (hm : s.cfg.harnessMode = true) (hc : clockRuns s = true)
    (h : fifoRead s.clockValue count.toNat s.timed = .ok (r, u)) :
    exec (.fifoRead count) s = .next (u.record (.fifoRead r)) :=
  (exec_fifoRead count s).trans (issueAlone_next hm hc (by rw [h]))

theorem exec_fifoRead_fault {f : Fault} (hm : s.cfg.harnessMode = true) (hc : clockRuns s = true)
    (h : fifoRead s.clockValue count.toNat s.timed = .error f) : exec (.fifoRead count) s = .fault f :=
  (exec_fifoRead count s).trans (issueAlone_fault hm hc (by rw [h]))

theorem count_le_of_wellFormed {p : Params} (h : WellFormed p (.fifoRead count) = true) : count.toNat ≤ p.maxSamples :=
  (of_decide_eq_true h).2

end

/-- Settles O27: the fault leaves the batches of the state before. -/
theorem earlyFifoReadFaults : Obligations.EarlyFifoReadFaults := by
  unfold Obligations.EarlyFifoReadFaults
  intro count s hm hc hwf hearly a hok hlen hne
  have hread := fifoRead_timed_of_ok (count_le_of_wellFormed hwf) hok
  rw [parseBlock_of_early hlen (by rwa [State.drained_cfg]) (by rwa [State.drained_cfg]), State.drained_cfg] at hread
  exact ⟨_, exec_fifoRead_fault hm hc hread, by simp⟩

/-- Settles O26: by whether the transfer fails and, where it does not, whether its block is whole. -/
theorem fifoReadEmitsTheValidFrames : Obligations.FifoReadEmitsTheValidFrames := by
  unfold Obligations.FifoReadEmitsTheValidFrames
  intro count s hm hc hwf a scan whole hlate r
  refine ⟨rfl, ?_⟩
  have hn := count_le_of_wellFormed hwf
  cases herr : a.error with
  | true =>
    refine ⟨_, exec_fifoRead_next hm hc (fifoRead_timed_of_error hn herr), ?_⟩
    simp [r, whole, herr, BusAnswer.result, a]
  | false =>
    have hread := fifoRead_timed_of_ok hn herr
    by_cases hlen : a.block.length = 2 + count.toNat * 7
    · have hwhole : whole = true := by simp [whole, herr, hlen]
      obtain ⟨u, hparse, hout, hctx, hcfg, hshared, hfaults, henv⟩ := parseBlock_of_late (t := s.clockValue)
        (s := s.drained count.toNat) hlen (by simpa using hlate hwhole)
      refine ⟨_, exec_fifoRead_next hm hc (hread.trans hparse), ?_⟩
      have hr : r = scanOutcome scan.2 := by
        simp only [r, herr, hwhole]
        cases scan.2 <;> rfl
      simp [hr, hout, hctx, hcfg, hshared, hfaults, henv, State.countScan_ctx, hwhole, herr, BusAnswer.result, a, scan,
        batchesOf]
    · rw [parseBlock_of_length_ne hlen] at hread
      refine ⟨_, exec_fifoRead_next hm hc hread, ?_⟩
      simp [r, whole, herr, BusAnswer.result, a, hlen]

/-! ## The timestamp law (R129) -/

theorem sampleTime_toNat (t : Time) (n interval k : Nat) :
    (sampleTime t n interval k).toNat = t.toNat - (n - 1 - k) * interval := by
  have ht := t.isLt
  rw [sampleTime, BitVec.toNat_ofNat, Nat.mod_eq_of_lt (by omega)]

/-- The last frame has the captured time. -/
theorem sampleTime_last (t : Time) (n interval : Nat) : sampleTime t n interval (n - 1) = t :=
  BitVec.eq_of_toNat_eq (by rw [sampleTime_toNat, Nat.sub_self, Nat.zero_mul, Nat.sub_zero])

/-- An earlier frame has an earlier time, where the oldest time is not below 0. -/
theorem sampleTime_lt {t : Time} {n interval k : Nat} (hlate : (n - 1) * interval ≤ t.toNat) (hk : k < n - 1)
    (hi : 1 ≤ interval) : sampleTime t n interval k < t := by
  have hpos : 0 < (n - 1 - k) * interval := Nat.mul_pos (by omega) hi
  have hle : (n - 1 - k) * interval ≤ (n - 1) * interval := Nat.mul_le_mul_right interval (Nat.sub_le _ _)
  rw [BitVec.lt_def, sampleTime_toNat]
  omega

/-- Settles O28: the samples are those of the frames in order, and each has the time of its frame. -/
theorem timestampLaw : Obligations.TimestampLaw := by
  unfold Obligations.TimestampLaw
  intro p t n frames hlate _
  refine ⟨List.length_map _, fun j r x hr hx => ?_⟩
  obtain rfl : sampleOf p t n r = x := by simpa [batchOf, hr] using hx
  refine ⟨sampleTime_toNat t n _ r.k, fun hk => ?_, fun hk hi => ?_⟩
  · show sampleTime t n p.sampleIntervalUs r.k = t
    rw [hk, sampleTime_last]
  · exact BitVec.ne_of_lt (sampleTime_lt hlate hk hi)

/-! ## The truncation law (R130, R131) -/

/-- A frame's bytes lie one after another in the block (R93). -/
theorem frameByte_frameAt (buf : List Byte) (k : Nat) {i : Nat} (hi : i < 7) :
    frameByte (frameAt buf k) i = buf.getD (2 + k * 7 + i) 0x00#8 := by
  have hi' : i < frameSize := hi
  rw [frameByte, frameAt, List.getD_eq_getElem?_getD, List.getElem?_take_of_lt hi', List.getElem?_drop,
    List.getD_eq_getElem?_getD]
  rfl

/-- The tag of frame `k` is that of a valid frame (R89, R90). -/
def TagValid (p : Params) (buf : List Byte) (k : Nat) : Prop := p.tagClass (frameByte (frameAt buf k) 0) = .valid

/-- The first `m` frames of a block, each with its index and its axis values. -/
def rawFrames (buf : List Byte) (m : Nat) : List RawSample := (List.range m).map fun k => rawSample k (frameAt buf k)

theorem rawFrames_eq_nil_iff (buf : List Byte) (m : Nat) : rawFrames buf m = [] ↔ m = 0 := by simp [rawFrames]

section
variable {p : Params} {buf : List Byte} {n k : Nat}

/-- A scan stops at the first bad frame, with the frames before it. -/
theorem scanFrames_of_bad (hk : k < n) (hbad : ¬ TagValid p buf k) (hvalid : ∀ j < k, TagValid p buf j) :
    scanFrames p buf n 0 = (rawFrames buf k, some k) := by
  obtain ⟨hframes, hbefore, hend⟩ := scanFrames_spec p buf n 0
  rcases hs : scanFrames p buf n 0 with ⟨frames, _ | b⟩ <;> rw [hs] at hframes hbefore hend <;>
    simp only [Nat.zero_add] at hframes hbefore hend
  · exact absurd (hbefore k (hend ▸ hk)) hbad
  · obtain ⟨rfl, -, hb⟩ := hend
    have hlen : frames.length = k := by
      rcases Nat.lt_trichotomy frames.length k with hlt | heq | hgt
      · exact absurd (hvalid _ hlt) hb
      · exact heq
      · exact absurd (hbefore k hgt) hbad
    rw [hlen] at hframes
    rw [hlen, hframes, rawFrames]

/-- A scan that meets no bad frame validates every frame. -/
theorem scanFrames_of_valid (hvalid : ∀ j < n, TagValid p buf j) : scanFrames p buf n 0 = (rawFrames buf n, none) := by
  obtain ⟨hframes, -, hend⟩ := scanFrames_spec p buf n 0
  rcases hs : scanFrames p buf n 0 with ⟨frames, _ | b⟩ <;> rw [hs] at hframes hend <;>
    simp only [Nat.zero_add] at hframes hend
  · rw [hend] at hframes
    rw [hframes, rawFrames]
  · obtain ⟨-, hlt, hb⟩ := hend
    exact absurd (hvalid b hlt) hb

end

/-- Settles O29: the scan of the block, and the one batch of the frames it validates. -/
theorem truncationLaw : Obligations.TruncationLaw := by
  unfold Obligations.TruncationLaw
  intro s t n buf hlen hlate valid frame batch
  have hvalid : ∀ k, valid k ↔ TagValid s.cfg buf k := fun k => by
    simp only [valid, TagValid, frameByte_frameAt buf k (Nat.zero_lt_succ 6), Nat.add_zero]
  have hframe : frame = fun k => rawSample k (frameAt buf k) := by
    funext k
    simp [frame, rawSample, frameByte_frameAt]
  have hbatch : ∀ m, batchesOf s.cfg t n (rawFrames buf m) = batch m := fun m => by
    simp only [batch, hframe, batchesOf, rawFrames_eq_nil_iff]
    rfl
  obtain ⟨u, hparse, hout, -⟩ := parseBlock_of_late (s := s) (t := t) hlen fun _ => hlate
  refine ⟨fun k hk hbad hbefore => ⟨u, ?_⟩, fun hall => ⟨u, ?_⟩⟩
  · rw [scanFrames_of_bad hk (mt (hvalid k).mpr hbad) fun j hj => (hvalid j).mp (hbefore j hj)] at hparse hout
    exact ⟨hparse, by rw [hout, hbatch]⟩
  · rw [scanFrames_of_valid fun j hj => (hvalid j).mp (hall j hj)] at hparse hout
    exact ⟨hparse, by rw [hout, hbatch]⟩

end Sys2Proof.Machine

/-!
The family 44_state_machine. A tick is read by the arm of the state it starts in: one lemma for each state says what such a tick
answers, and each arm is an equation over its cases. A FIFO_READ tick is its register check, its FIFO work and the two steps
that end it, and the statements about it follow these parts in order.
-/

namespace Sys2Proof.Machine

/-! ## FIFO accesses (R168) -/

section
variable {p : Params} (a : BusAnswer) (st : AcqState)

theorem not_fifoAccess_write (addr value : Byte) : ¬ FifoAccess p (busEvent (.write addr value) a st) := by
  rintro (h | ⟨h, -⟩) <;> cases h

/-- A table register is no FIFO register (R168's parenthesis). -/
theorem not_fifoAccess_table {x : RegisterConfigEntry} (hx : x ∈ p.table) :
    ¬ FifoAccess p (busEvent (.read x.reg) a st) := by
  rintro (h | ⟨-, -, htable, -⟩)
  · cases h
  · exact htable x hx rfl

/-- The probe's register is no FIFO register (R168's parenthesis). -/
theorem not_fifoAccess_probe (hm : p.resetProbeMask ≠ 0x00#8) :
    ¬ FifoAccess p (busEvent (.read p.resetProbeReg) a st) := by
  rintro (h | ⟨-, -, -, hmask | hreg⟩)
  · cases h
  · exact hm hmask
  · exact hreg rfl

end

/-- The FIFO accesses among the events that `t` has beyond those of `s` were issued in FIFO_READ. -/
def AccessesInFifoRead (s t : State) : Prop :=
  ∃ evs, t.out.busLog = s.out.busLog ++ evs ∧ ∀ e ∈ evs, FifoAccess s.cfg e → e.state = .fifoRead

/-- No arm but that of FIFO_READ issues a FIFO access (R146 to R158). -/
theorem runArm_accessesInFifoRead {s t : State} (h : runArm s.clockValue (drdyPending s) (prologue s) = .ok t) :
    AccessesInFifoRead s t := by
  obtain ⟨c, hd⟩ := runArm_did (P := fun e => FifoAccess s.cfg e → e.state = .fifoRead) h
    (fun _ a ha => absurd ha (not_fifoAccess_write a _ _ _))
    (fun _ hm a ha => absurd ha (not_fifoAccess_probe a _ hm))
    (fun _ x hx a => ⟨fun ha => absurd ha (not_fifoAccess_table a _ hx),
      fun v ha => absurd ha (not_fifoAccess_write a _ _ _)⟩)
    fun _ he _ => he
  exact hd.log

/-- The events and the commands issue no transaction (R71, R162, R205). -/
theorem exec_boundary_busLog {i : Instr} {s t : State} (hi : classOf i = .boundary) (hne : i ≠ .tick)
    (h : exec i s = .next t) : t.out.busLog = s.out.busLog := by
  cases i with
  | tick => exact absurd rfl hne
  | drdySignal =>
    cases h
    rw [State.drdySignal_out]
  | timerExpire =>
    cases h
    rw [State.timerExpire_out]
  | cmdStart =>
    rw [exec_cmdStart] at h
    split at h <;> cases h <;> rfl
  | cmdStop =>
    rw [exec_cmdStop] at h
    split at h <;> cases h <;> rfl
  | cmdReset =>
    cases h
    rfl
  | cmdPrintDiagnostics =>
    cases h
    rfl
  | _ => cases hi

/-- A class I or X operation has no next state outside HARNESS_MODE (R86). -/
theorem classOf_eq_boundary_of_exec {i : Instr} {s t : State} (hm : s.cfg.harnessMode = false) (h : exec i s = .next t) :
    classOf i = .boundary := by
  by_contra hi
  obtain ⟨hm', -⟩ := exec_alone_inv (P := fun _ => True) hi h fun _ _ => trivial
  rw [hm] at hm'
  cases hm'

/-- Outside HARNESS_MODE every operation makes its FIFO accesses in FIFO_READ: the tick is the only one that makes any. -/
theorem exec_accessesInFifoRead {i : Instr} {s t : State} (hm : s.cfg.harnessMode = false) (h : exec i s = .next t) :
    AccessesInFifoRead s t := by
  by_cases hi : i = .tick
  · subst hi
    rcases exec_tick_inv h with ⟨-, rfl⟩ | ⟨-, -, ha⟩
    · exact ⟨[], by simp, nofun⟩
    · exact runArm_accessesInFifoRead ha
  · exact ⟨[], by rw [exec_boundary_busLog (classOf_eq_boundary_of_exec hm h) hi h, List.append_nil], nofun⟩

/-- Settles O55: nothing is logged at creation, and the one operation of a step is a boundary operation, of which the tick in
FIFO_READ alone makes FIFO accesses. -/
theorem fifoAccessStaysInFifoRead : Obligations.FifoAccessStaysInFifoRead := by
  unfold Obligations.FifoAccessStaysInFifoRead
  refine ⟨fun _ => nofun, fun s t hm hs h => ?_⟩
  obtain ⟨-, -, i, env, hx⟩ := step_inv h
  obtain ⟨evs, hlog, hevs⟩ := exec_accessesInFifoRead (s := { s with env }) hm hx
  have hcfg : t.cfg = s.cfg := (exec_framed hx).cfg
  intro e he
  rw [hlog, List.mem_append] at he
  rw [hcfg]
  exact he.elim (hs e) (hevs e)

/-! ## Events and commands (R160 to R166) -/

/-- Settles O46: by the mask of the data-ready line. -/
theorem dataReadySignal : Obligations.DataReadySignal := by
  unfold Obligations.DataReadySignal
  refine fun s => ⟨rfl, fun hd => ?_, fun hd => ⟨s.drdySignal, exec_drdySignal s, ?_⟩⟩
  · rw [exec_drdySignal, State.drdySignal, hd]
    rfl
  · rw [State.drdySignal, if_pos hd]
    exact ⟨satAdd32_toNat _ _, rfl⟩

/-- A request made twice is one request (R46). -/
theorem State.requestTick_of_requested {s : State} (h : s.shared.tickRequested = true) : s.requestTick = s := by
  rw [State.requestTick, ← h]

/-- Settles O33: a tick waits for a request, and a timer event adds nothing to one. -/
theorem unrequestedTickWaits : Obligations.UnrequestedTickWaits := by
  unfold Obligations.UnrequestedTickWaits
  refine ⟨fun s h => by rw [exec_tick, h]; rfl, fun s t ht h => ?_⟩
  obtain rfl : s.timerExpire = t := by
    rw [exec_timerExpire] at ht
    exact Host.Outcome.next.inj ht
  rw [State.timerExpire, State.requestTick_of_requested h, ite_self]

/-- Settles O47: by the mask of the timer. -/
theorem timerExpiry : Obligations.TimerExpiry := by
  unfold Obligations.TimerExpiry
  refine fun s => ⟨rfl, fun ht => ?_, fun ht => ?_⟩ <;> rw [exec_timerExpire, State.timerExpire, ht] <;> rfl

/-- Settles O48: EnterReset and the restart, in STOPPED alone. -/
theorem cmdStart : Obligations.CmdStart := by
  unfold Obligations.CmdStart
  refine fun s => ⟨rfl, fun hs => ?_, fun hs => ?_⟩
  · rw [exec_cmdStart, if_neg hs]
  · rw [exec_cmdStart, if_pos hs]
    rfl

/-- Settles O49: by whether the block has stopped. -/
theorem cmdStop : Obligations.CmdStop := by
  unfold Obligations.CmdStop
  refine fun s => ⟨rfl, fun hs => ?_, fun hs => ?_⟩
  · rw [exec_cmdStop, if_pos hs]
  · rw [exec_cmdStop, if_neg hs]

/-- Settles O50: EnterReset, the counters cleared, and the restart, whatever the state. -/
theorem cmdReset : Obligations.CmdReset := by
  unfold Obligations.CmdReset
  exact fun s => ⟨rfl, exec_cmdReset s⟩

/-- Settles O51: the snapshot lists the fields of the context in the order of R52. -/
theorem cmdPrintDiagnostics : Obligations.CmdPrintDiagnostics := by
  unfold Obligations.CmdPrintDiagnostics
  exact fun s => ⟨rfl, exec_cmdPrintDiagnostics s⟩

/-! ## SOFT_RESET (R145) -/

/-- Settles O32: its one transaction is the write of the soft-reset command. -/
theorem softResetWritesTheCommand : Obligations.SoftResetWritesTheCommand := by
  unfold Obligations.SoftResetWritesTheCommand
  intro s hm hc
  refine ⟨rfl, exec_of_transact (r := .write s.cfg.regCmdSoftreset s.cfg.valSoftreset) hm hc (exec_softReset s) ?_⟩
  rw [softReset_eq, State.timed_answer, State.timed_cfg]

/-! ## A requested tick, by the state it starts in (R141, R143) -/

/-- The only way a requested tick answers a next state. -/
theorem exec_requested_tick_inv {s t : State} (hr : s.shared.tickRequested = true) (h : exec .tick s = .next t) :
    clockRuns s = true ∧ runArm s.clockValue (drdyPending s) (prologue s) = .ok t := by
  rcases exec_tick_inv h with ⟨hn, -⟩ | ⟨-, hc, ha⟩
  · rw [hr] at hn
    cases hn
  · exact ⟨hc, ha⟩

section
variable {s : State} (hr : s.shared.tickRequested = true) (hc : clockRuns s = true)
include hr hc

theorem exec_tick_of_reset (hs : s.ctx.state = .reset) : exec .tick s = .next (armReset s.clockValue (prologue s)) := by
  rw [exec_tick_eq hr hc, runArm, prologue_state, hs]
  rfl

theorem exec_tick_of_waitForReset (hs : s.ctx.state = .waitForReset) :
    exec .tick s = .next (armWait s.clockValue (prologue s)) := by
  rw [exec_tick_eq hr hc, runArm, prologue_state, hs]
  rfl

theorem exec_tick_of_configure (hs : s.ctx.state = .configure) :
    exec .tick s = .next (armConfigure s.clockValue (prologue s)) := by
  rw [exec_tick_eq hr hc, runArm, prologue_state, hs]
  rfl

theorem exec_tick_of_fifoRead (hs : s.ctx.state = .fifoRead) :
    exec .tick s = taskResult (armFifoRead s.clockValue (drdyPending s) (prologue s)) := by
  rw [exec_tick_eq hr hc, runArm, prologue_state, hs]

theorem exec_tick_of_requestStop (hs : s.ctx.state = .requestStop) :
    exec .tick s = .next (armRequestStop (prologue s)) := by
  rw [exec_tick_eq hr hc, runArm, prologue_state, hs]
  rfl

theorem exec_tick_of_stopped (hs : s.ctx.state = .stopped) : exec .tick s = .next (prologue s) := by
  rw [exec_tick_eq hr hc, runArm, prologue_state, hs]
  rfl

end

/-! ## Data-ready bookkeeping (R142) -/

section
variable {p : Params} {now : Time} {c d : Ctx}

/-- An arm keeps the data-ready time or sets it to the time of the tick (R150, R154). -/
theorem ArmRan.tDrdy (h : ArmRan p now c d) : d.tDrdy = c.tDrdy ∨ d.tDrdy = some now := by
  cases h with
  | configured => exact .inr rfl
  | mismatched d _ hw => exact hw.tDrdy
  | worked d _ hw _ => exact hw.tDrdy
  | busErrorsExhausted d _ hw => exact hw.tDrdy
  | _ => exact .inl rfl

/-- No arm writes the data-ready interval. -/
theorem ArmRan.drdyIntervalLast (h : ArmRan p now c d) : d.drdyIntervalLast = c.drdyIntervalLast := by
  cases h with
  | mismatched d _ hw => exact hw.drdyIntervalLast
  | worked d _ hw _ => exact hw.drdyIntervalLast
  | busErrorsExhausted d _ hw => exact hw.drdyIntervalLast
  | _ => rfl

end

theorem drdyPending_of_pos {s : State} (h : 0 < s.shared.pending.toNat) : drdyPending s = true := decide_eq_true h

/-- The context after the prologue of a tick that consumed an event (R142). -/
theorem prologue_ctx_pending {s : State} (h : 0 < s.shared.pending.toNat) :
    (prologue s).ctx = { s.ctx with tLastTick := some s.clockValue }.noteDrdy s.clockValue := by
  rw [prologue_ctx, if_pos (drdyPending_of_pos h)]

/-- The prologue uses of `pending` only whether it is 0. -/
theorem prologue_with_pending {s : State} {q : BitVec 32} (h : 0 < s.shared.pending.toNat) (hq : 0 < q.toNat) :
    prologue { s with shared.pending := q } = prologue s := by
  simp only [prologue, State.consumePending, drdyPending, State.timed_shared, h, hq]
  rfl

/-- Settles O36: the prologue does the bookkeeping, and no arm writes the interval or another data-ready time. -/
theorem dataReadyBookkeeping : Obligations.DataReadyBookkeeping := by
  unfold Obligations.DataReadyBookkeeping
  intro s t hr h
  obtain ⟨hc, ha⟩ := exec_requested_tick_inv hr h
  have hran := runArm_ran ha
  refine ⟨fun hp => ⟨?_, ?_⟩, fun hp => ?_, fun q hp hq => ?_⟩
  · have hnow : (prologue s).ctx.tDrdy = some s.clockValue := by rw [prologue_ctx_pending hp, Ctx.noteDrdy_tDrdy]
    exact hran.tDrdy.elim (·.trans hnow) id
  · rw [hran.drdyIntervalLast, prologue_ctx_pending hp]
    rfl
  · rw [hran.drdyIntervalLast, prologue_ctx_quiet hp]
  · have hpq : drdyPending { s with shared.pending := q } = drdyPending s :=
      (drdyPending_of_pos (s := { s with shared.pending := q }) hq).trans (drdyPending_of_pos hp).symm
    rw [exec_tick_eq (s := { s with shared.pending := q }) hr hc, prologue_with_pending hp hq, hpq]
    exact congrArg taskResult ha

/-! ## The RESET arm (R146) -/

section
variable {now : Time} {s : State}

theorem armReset_of_error (h : (s.answer (.write s.cfg.regCmdSoftreset s.cfg.valSoftreset)).error = true) :
    armReset now s = s.transact (.write s.cfg.regCmdSoftreset s.cfg.valSoftreset) := by
  rw [armReset, softReset_eq, h]
  rfl

theorem armReset_of_ok (h : (s.answer (.write s.cfg.regCmdSoftreset s.cfg.valSoftreset)).error = false) :
    armReset now s = { s.transact (.write s.cfg.regCmdSoftreset s.cfg.valSoftreset) with
      ctx.tReset := some now, ctx.state := .waitForReset } := by
  rw [armReset, softReset_eq, h]
  rfl

end

/-- Settles O37: by whether the write fails. -/
theorem resetTick : Obligations.ResetTick := by
  unfold Obligations.ResetTick
  intro s hr hc hs a
  refine ⟨_, exec_tick_of_reset hr hc hs, ?_⟩
  have ha : (prologue s).answer (.write s.cfg.regCmdSoftreset s.cfg.valSoftreset) = a := prologue_answer s _
  cases h : a.error with
  | true => rw [armReset_of_error (ha ▸ h)]; simp [a, h, hs, BusAnswer.result]
  | false => rw [armReset_of_ok (ha ▸ h)]; simp [a, h, hs, BusAnswer.result]

/-! ## The WAIT_FOR_RESET arm (R147, R148) -/

/-- Settles O38: by the time since the reset, and by what the probe reads. -/
theorem waitForResetTick : Obligations.WaitForResetTick := by
  unfold Obligations.WaitForResetTick
  intro s since hr hc hs hsince hle e a settled
  have he : elapsedOpt s.clockValue (prologue s).ctx.tReset = e := by
    rw [prologue_ctx_eq]
    simp only [hsince]
    exact elapsed_of_le hle
  have hsettled : resetSettled (prologue s) = (settled, if s.cfg.resetProbeMask = 0x00#8 then prologue s
      else (prologue s).transact (.read s.cfg.resetProbeReg)) := by
    rw [resetSettled_eq, prologue_answer]
    rfl
  refine ⟨_, exec_tick_of_waitForReset hr hc hs, ?_⟩
  rw [armWait_eq, he, hsettled]
  by_cases hmin : e < s.cfg.settleMinUs
  · simp [hmin, requests]
  · cases h : settled with
    | true => by_cases hmask : s.cfg.resetProbeMask = 0x00#8 <;> simp [hmin, hmask, requests]
    | false =>
      have hmask : s.cfg.resetProbeMask ≠ 0x00#8 := fun h0 => by simp [settled, h0] at h
      by_cases hmax : s.cfg.resetMaxWaitUs < e <;> simp [hmin, hmask, hmax, requests]

/-! ## The CONFIGURE arm (R149, R150) -/

section
variable {now : Time} {s : State}

theorem armConfigure_of_success (h : (configure s).1 = .success) :
    armConfigure now s = (configure s).2.enterFifoRead now := by
  obtain ⟨u, hu⟩ : ∃ u, configure s = (.success, u) := ⟨_, Prod.ext h rfl⟩
  rw [armConfigure, hu]

theorem armConfigure_of_failure (h : (configure s).1 ≠ .success) : armConfigure now s = (configure s).2.configFailed := by
  unfold armConfigure
  split <;> rename_i hu <;> rw [hu] at h ⊢
  exact absurd rfl h

theorem State.configFailed_of_lt (h : s.ctx.configFailStreak + 1 < s.cfg.configAttemptMax) :
    s.configFailed = { s with ctx.configFailStreak := s.ctx.configFailStreak + 1 } := if_neg (Nat.not_le.mpr h)

theorem State.configFailed_of_le (h : s.cfg.configAttemptMax ≤ s.ctx.configFailStreak + 1) :
    s.configFailed = s.enterReset := if_pos h

theorem State.configFailed_out : s.configFailed.out = s.out := by
  unfold State.configFailed
  split <;> rfl

end

/-- Settles O39: by the outcome of Configure and, where it failed, by whether the streak reaches the ceiling. -/
theorem configureTick : Obligations.ConfigureTick := by
  unfold Obligations.ConfigureTick
  intro s hr hc hs u
  obtain ⟨n, -, hd⟩ := configure_did (P := fun _ => True) (prologue s) fun _ _ _ => ⟨trivial, fun _ => trivial⟩
  have hcfg : u.cfg = s.cfg := hd.cfg
  have hstreak : u.ctx.configFailStreak = s.ctx.configFailStreak := by rw [hd.ctx, prologue_ctx_eq]
  refine ⟨_, exec_tick_of_configure hr hc hs, ?_⟩
  by_cases hok : (configure (prologue s)).1 = .success
  · rw [armConfigure_of_success hok]
    refine ⟨rfl, fun _ => ?_, fun h => absurd hok h, fun h => absurd hok h⟩
    rw [State.enterFifoRead_ctx, hcfg]
  · rw [armConfigure_of_failure hok]
    refine ⟨State.configFailed_out, fun h => absurd h hok, fun _ hlt => ?_, fun _ hle => ?_⟩
    · rw [State.configFailed_of_lt (by rwa [hcfg, hstreak]), hstreak]
    · rw [State.configFailed_of_le (by rwa [hcfg, hstreak])]
      exact ⟨rfl, rfl⟩

/-! ## The REQUEST_STOP and STOPPED arms (R158, R159) -/

/-- Settles O45: a tick in REQUEST_STOP is its arm, one in STOPPED its prologue. -/
theorem stoppingTicks : Obligations.StoppingTicks := by
  unfold Obligations.StoppingTicks
  exact fun s hr hc => ⟨fun hs => ⟨_, exec_tick_of_requestStop hr hc hs, rfl, rfl, rfl, rfl, rfl⟩,
    fun hs => ⟨exec_tick_of_stopped hr hc hs, rfl, rfl, prologue_ctx_quiet⟩⟩

/-! ## A FIFO_READ tick, by the outcome of its register check (R151) -/

section
variable {s : State}

@[simp] theorem prologue_cursor : (prologue s).ctx.cursor = s.ctx.cursor := by rw [prologue_ctx_eq]
@[simp] theorem prologue_tCfgCheck : (prologue s).ctx.tCfgCheck = s.ctx.tCfgCheck := by rw [prologue_ctx_eq]
@[simp] theorem prologue_tTemp : (prologue s).ctx.tTemp = s.ctx.tTemp := by rw [prologue_ctx_eq]
@[simp] theorem prologue_cntBadRegister : (prologue s).ctx.cntBadRegister = s.ctx.cntBadRegister := by rw [prologue_ctx_eq]
@[simp] theorem prologue_busErrorStreak : (prologue s).ctx.busErrorStreak = s.ctx.busErrorStreak := by rw [prologue_ctx_eq]
@[simp] theorem prologue_badframeStreak : (prologue s).ctx.badframeStreak = s.ctx.badframeStreak := by rw [prologue_ctx_eq]

section
variable (hr : s.shared.tickRequested = true) (hc : clockRuns s = true) (hs : s.ctx.state = .fifoRead)
include hr hc hs

theorem exec_tick_of_mismatch (h : (checkStep s.clockValue (prologue s)).1 = .mismatch) :
    exec .tick s = .next (afterCheck s).reconfigure := by
  obtain ⟨u, hu⟩ : ∃ u, checkStep s.clockValue (prologue s) = (.mismatch, u) := ⟨_, Prod.ext h rfl⟩
  rw [exec_tick_of_fifoRead hr hc hs, afterCheck, armFifoRead, hu]
  rfl

theorem exec_tick_of_checkBusErr (h : (checkStep s.clockValue (prologue s)).1 = .busErr) :
    exec .tick s = .next ((afterCheck s).accountBusError true) := by
  obtain ⟨u, hu⟩ : ∃ u, checkStep s.clockValue (prologue s) = (.busErr, u) := ⟨_, Prod.ext h rfl⟩
  rw [exec_tick_of_fifoRead hr hc hs, afterCheck, armFifoRead, hu]
  rfl

section
variable (hm : (checkStep s.clockValue (prologue s)).1 = .matched)
include hm

theorem exec_tick_of_matched :
    exec .tick s = taskResult ((afterWork s).map fun r => finishFifoRead s.clockValue r.1 r.2) := by
  rw [exec_tick_of_fifoRead hr hc hs, armFifoRead_matched hm]

theorem exec_tick_of_afterWork_ok {busErr : Bool} {v : State} (h : afterWork s = .ok (busErr, v)) :
    exec .tick s = .next (finishFifoRead s.clockValue busErr v) := by
  rw [exec_tick_of_matched hr hc hs hm, h]
  rfl

theorem exec_tick_of_afterWork_error {f : Fault} (h : afterWork s = .error f) : exec .tick s = .fault f := by
  rw [exec_tick_of_matched hr hc hs hm, h]
  rfl

end

end

/-! ## The register check of a tick (R152, R153) -/

section
variable {e : RegisterConfigEntry} (hdue : due s.cfg.cfgCheckIntervalUs s.clockValue s.ctx.tCfgCheck = true)
  (he : s.cfg.table[s.ctx.cursor]? = some e)
include hdue

theorem checkStep_of_due : checkStep s.clockValue (prologue s) = registerCheck ((prologue s).noteCfgCheck s.clockValue) := by
  rw [checkStep, if_pos (by simpa using hdue)]

include he

theorem checkStep_of_error (h : (s.answer (.read e.reg)).error = true) : checkStep s.clockValue (prologue s) =
    (.busErr, ((prologue s).noteCfgCheck s.clockValue).advanceCursor.transact (.read e.reg)) := by
  rw [checkStep_of_due hdue, registerCheck_of_error (by simpa using he) (by simpa using h)]

theorem checkStep_of_ok (h : (s.answer (.read e.reg)).error = false) : checkStep s.clockValue (prologue s) =
    (if satisfied e (s.answer (.read e.reg)).byte then .matched else .mismatch,
      (((prologue s).noteCfgCheck s.clockValue).advanceCursor.transact (.read e.reg)).noteReadback e
        (s.answer (.read e.reg)).byte) := by
  rw [checkStep_of_due hdue, registerCheck_of_ok (by simpa using he) (by simpa using h), State.noteCfgCheck_answer,
    prologue_answer]

end

end

/-- Settles O40: the check's one read finds the mismatch, and the tick ends there. -/
theorem mismatchTickReconfigures : Obligations.MismatchTickReconfigures := by
  unfold Obligations.MismatchTickReconfigures
  intro s e hr hc hs hdue he a hok hsat
  have hcheck := checkStep_of_ok hdue he hok
  have hm : (checkStep s.clockValue (prologue s)).1 = .mismatch := by simp [hcheck, a, hsat]
  refine ⟨_, exec_tick_of_mismatch hr hc hs hm, ?_⟩
  rw [afterCheck, hcheck]
  simp [a, hok, hsat, hs, BusAnswer.result]

/-! ## The bus-error accounting (R157) -/

section
variable {s : State}

theorem accountBusError_false : s.accountBusError false = { s with ctx.busErrorStreak := 0 } := rfl

theorem accountBusError_of_lt (h : s.ctx.busErrorStreak + 1 < s.cfg.busErrorResetThreshold) :
    s.accountBusError true = { s with ctx.busErrorStreak := s.ctx.busErrorStreak + 1 } := if_neg (Nat.not_le.mpr h)

theorem accountBusError_of_le (h : s.cfg.busErrorResetThreshold ≤ s.ctx.busErrorStreak + 1) :
    s.accountBusError true = s.enterReset := if_pos h

/-- The accounting reads the parameters and the context alone. -/
theorem accountBusError_ctx_congr {t : State} (hg : s.cfg = t.cfg) (hc : s.ctx = t.ctx) (b : Bool) :
    (s.accountBusError b).ctx = (t.accountBusError b).ctx := by
  unfold State.accountBusError
  rw [hg, hc]
  split
  · split <;> simp
  · rfl

end

/-- What the accounting makes of the streak and, at the threshold, of the rest, after a tick's work that ended in a bus error
exactly if `met` holds. -/
def Accounted (s t : State) (met : Prop) : Prop :=
  (t.ctx.state = .configure → ¬ met ∧ t.ctx.busErrorStreak = s.ctx.busErrorStreak) ∧
  (t.ctx.state ≠ .configure → ¬ met → t.ctx.state = .fifoRead ∧ t.ctx.busErrorStreak = 0) ∧
  (met → s.ctx.busErrorStreak + 1 < s.cfg.busErrorResetThreshold →
    t.ctx.state = .fifoRead ∧ t.ctx.busErrorStreak = s.ctx.busErrorStreak + 1) ∧
  (met → s.cfg.busErrorResetThreshold ≤ s.ctx.busErrorStreak + 1 →
    t.ctx.state = .reset ∧ t.ctx.cursor = 0 ∧ t.ctx.drdyEnabled = false ∧ t.ctx.configFailStreak = 0 ∧
      t.ctx.busErrorStreak = 0 ∧ t.ctx.badframeStreak = 0 ∧ t.shared.pending = 0#32)

section
variable {s u : State} {met : Prop}

theorem accounted_reconfigure (hk : u.ctx.busErrorStreak = s.ctx.busErrorStreak) (hmet : ¬ met) :
    Accounted s u.reconfigure met :=
  ⟨fun _ => ⟨hmet, hk⟩, fun h => absurd rfl h, fun h => absurd h hmet, fun h => absurd h hmet⟩

theorem accounted_accountBusError {b : Bool} (hs : u.ctx.state = .fifoRead) (hg : u.cfg = s.cfg)
    (hk : u.ctx.busErrorStreak = s.ctx.busErrorStreak) (hmet : b = true ↔ met) :
    Accounted s (u.accountBusError b) met := by
  cases b with
  | false =>
    have hno : ¬ met := fun h => nomatch hmet.mpr h
    rw [accountBusError_false]
    exact ⟨fun h => (nomatch hs.symm.trans h), fun _ _ => ⟨hs, rfl⟩, fun h => absurd h hno, fun h => absurd h hno⟩
  | true =>
    have hyes : met := hmet.mp rfl
    rcases Nat.lt_or_ge (s.ctx.busErrorStreak + 1) s.cfg.busErrorResetThreshold with hlt | hle
    · rw [accountBusError_of_lt (by rwa [hg, hk]), hk]
      exact ⟨fun h => (nomatch hs.symm.trans h), fun _ h => absurd hyes h, fun _ _ => ⟨hs, rfl⟩,
        fun _ h => absurd hlt (Nat.not_lt.mpr h)⟩
    · rw [accountBusError_of_le (by rwa [hg, hk])]
      exact ⟨nofun, fun _ h => absurd hyes h, fun _ h => absurd h (Nat.not_lt.mpr hle),
        fun _ _ => ⟨rfl, rfl, rfl, rfl, rfl, rfl, rfl⟩⟩

end

/-- A FIFO_READ tick is a run of transactions that ends at the first one that fails, and accounts for it. -/
theorem exec_tick_accounted {s t : State} (hr : s.shared.tickRequested = true) (hs : s.ctx.state = .fifoRead)
    (h : exec .tick s = .next t) : ∃ new, t.out.busLog = s.out.busLog ++ new ∧
      (∀ e ∈ new.dropLast, e.result ≠ .busError) ∧
      Accounted s t (∃ e, new.getLast? = some e ∧ e.result = .busError) := by
  obtain ⟨-, ha⟩ := exec_requested_tick_inv hr h
  have hst : (prologue s).ctx.state = .fifoRead := (prologue_state s).trans hs
  rw [runArm, hst] at ha
  rcases armFifoRead_inv (P := fun _ => True) (fun _ _ => trivial) hst ha with
    ⟨u, ⟨-, hw⟩, -, rfl, -, hrun⟩ | ⟨u, b, ⟨hd, hw⟩, rfl, hrun⟩
  · obtain ⟨new, hlog, hbefore, hlast⟩ := hrun.events
    exact ⟨new, hlog, hbefore,
      accounted_reconfigure (hw.busErrorStreak.trans prologue_busErrorStreak) fun h => nomatch hlast.mpr h⟩
  · obtain ⟨new, hlog, hbefore, hlast⟩ := hrun.events
    exact ⟨new, by rw [accountBusError_out]; exact hlog, hbefore, accounted_accountBusError (hw.state.trans hst) hd.cfg
      (hw.busErrorStreak.trans prologue_busErrorStreak) hlast⟩

/-- Settles O41: the first part for every tick, and for a bus error of the check the one read it is. -/
theorem busErrorTickEndsItsBusActivity : Obligations.BusErrorTickEndsItsBusActivity := by
  unfold Obligations.BusErrorTickEndsItsBusActivity
  refine ⟨fun s t hr hs h => exec_tick_accounted hr hs h, fun s e hr hc hs hdue he herr => ?_⟩
  have hcheck := checkStep_of_error hdue he herr
  refine ⟨_, exec_tick_of_checkBusErr hr hc hs (by rw [hcheck]), ?_⟩
  rw [accountBusError_out, afterCheck, hcheck]
  refine ⟨by simp [herr, hs, BusAnswer.result], ?_⟩
  split
  case isTrue hlt => rw [accountBusError_of_lt (by simpa using hlt)]; simp
  case isFalse hlt => rw [accountBusError_of_le (by simpa using hlt)]; simp

/-! ## FIFO work paced by data-ready (R154) -/

section
variable {s : State}

theorem stallAt_iff : stallAt s = true ↔ s.ctx.drdyEnabled = true ∧ s.shared.pending = 0#32 ∧
    2 * s.cfg.drdyExpectedIntervalUs < elapsedOpt s.clockValue s.ctx.tDrdy := by
  simp [stallAt, and_assoc]

theorem fifoWorkAt_iff : fifoWorkAt s = true ↔
    s.ctx.drdyEnabled = false ∨ s.shared.pending ≠ 0#32 ∨ stallAt s = true := by
  simp [fifoWorkAt, or_assoc]

theorem workStart_of_stall (h : stallAt s = true) :
    workStart s = { afterCheck s with ctx.tDrdy := some s.clockValue } := by
  rw [workStart, if_pos h]

theorem workStart_of_not_stall (h : ¬ stallAt s = true) : workStart s = afterCheck s := by
  rw [workStart, if_neg h]

theorem afterWork_of_work (h : fifoWorkAt s = true) : afterWork s = fifoWork s.clockValue (workStart s) := if_pos h

theorem afterWork_of_idle (h : ¬ fifoWorkAt s = true) : afterWork s = .ok (false, afterCheck s) := if_neg h

/-- A register check that finds nothing wrong keeps the parameters, the temperature time and the bad-frame streak. -/
theorem afterCheck_kept (hm : (checkStep s.clockValue (prologue s)).1 = .matched) :
    (afterCheck s).cfg = s.cfg ∧ (afterCheck s).ctx.tTemp = s.ctx.tTemp ∧
      (afterCheck s).ctx.badframeStreak = s.ctx.badframeStreak := by
  obtain ⟨hcfg, hctx, -⟩ := checkStep_matched hm
  rw [afterCheck, hctx]
  exact ⟨hcfg, by split <;> simp, by split <;> simp⟩

end

/-- After a bus error, and where it is not due, the temperature update does not run (R156). -/
theorem temperatureStep_of_idle {now : Time} {busErr : Bool} {s : State}
    (h : (!busErr && due s.cfg.tempIntervalUs now s.ctx.tTemp) = false) : temperatureStep now busErr s = (busErr, s) := by
  rw [temperatureStep, h]
  rfl

/-- Settles O42: the check from what a matched one does, and the rest of the tick from what its work is. -/
theorem fifoWorkIsPacedByDataReady : Obligations.FifoWorkIsPacedByDataReady := by
  unfold Obligations.FifoWorkIsPacedByDataReady
  intro s hr hc hs hm u checked stall work start
  obtain ⟨-, hctx, hreq⟩ := checkStep_matched hm
  have hstall : stall ↔ stallAt s = true := stallAt_iff.symm
  have hwork : work ↔ fifoWorkAt s = true := by rw [fifoWorkAt_iff, ← hstall]
  have htick := exec_tick_of_matched hr hc hs hm
  have hstart : work → start (workStart s) := fun hw => by
    rw [afterWork_of_work (hwork.mp hw)] at htick
    exact htick
  have hidle : ¬ work → exec .tick s = .next (finishFifoRead s.clockValue false u) := fun hw => by
    rw [afterWork_of_idle (mt hwork.mpr hw)] at htick
    exact htick
  refine ⟨by simpa using hctx, by simpa using hreq, fun hst => ?_, fun hw hst => ?_, hidle, fun hw hdue => ?_⟩
  · rw [← show workStart s = { u with ctx.tDrdy := some s.clockValue } from workStart_of_stall (hstall.mp hst)]
    exact hstart (.inr (.inr hst))
  · rw [← show workStart s = u from workStart_of_not_stall (mt hstall.mpr hst)]
    exact hstart hw
  · obtain ⟨hcfg, htemp, -⟩ := afterCheck_kept hm
    have hnot : (!false && due u.cfg.tempIntervalUs s.clockValue u.ctx.tTemp) = false := by
      rw [show u.cfg = s.cfg from hcfg, show u.ctx.tTemp = s.ctx.tTemp from htemp, hdue]
      rfl
    refine ⟨_, hidle hw, ?_⟩
    rw [finishFifoRead, temperatureStep_of_idle hnot]
    exact ⟨rfl, rfl⟩

/-! ## FIFO work by the outcomes of the count and of the batch (R155) -/

section
variable {now : Time} {s : State}

theorem fifoWork_of_busErr (h : (readFifoCount s).1 = .busErr) : fifoWork now s = .ok (true, (readFifoCount s).2) := by
  obtain ⟨u, hu⟩ : ∃ u, readFifoCount s = (.busErr, u) := ⟨_, Prod.ext h rfl⟩
  rw [fifoWork, hu]

theorem fifoWork_of_empty (h : (readFifoCount s).1 = .empty) : fifoWork now s = .ok (false, (readFifoCount s).2) := by
  obtain ⟨u, hu⟩ : ∃ u, readFifoCount s = (.empty, u) := ⟨_, Prod.ext h rfl⟩
  rw [fifoWork, hu]

theorem fifoWork_of_count {n : Nat} (h : (readFifoCount s).1 = .count n) :
    fifoWork now s = fifoReadStep now n (readFifoCount s).2 := by
  obtain ⟨u, hu⟩ : ∃ u, readFifoCount s = (.count n, u) := ⟨_, Prod.ext h rfl⟩
  rw [fifoWork, hu]

theorem flushStep_eq (s : State) : flushStep s = ((fifoReset s).1 == .busErr, (fifoReset s).2) := by
  unfold flushStep
  split <;> rename_i h <;> rw [h] <;> rfl

theorem fifoReset_badframeStreak (s : State) :
    (fifoReset s).2.ctx.badframeStreak = if (fifoReset s).1 = .ok then 0 else s.ctx.badframeStreak := by
  rw [fifoReset_eq]
  split <;> simp

section
variable {n : Nat} {v : State}

theorem fifoReadStep_of_error {f : Fault} (h : fifoRead now n s = .error f) : fifoReadStep now n s = .error f := by
  rw [fifoReadStep, h]

theorem fifoReadStep_of_ok (h : fifoRead now n s = .ok (.ok, v)) :
    fifoReadStep now n s = .ok (false, { v with ctx.badframeStreak := 0 }) := by
  rw [fifoReadStep, h]

theorem fifoReadStep_of_busErr (h : fifoRead now n s = .ok (.busErr, v)) : fifoReadStep now n s = .ok (true, v) := by
  rw [fifoReadStep, h]

theorem fifoReadStep_of_bad {r : FifoReadOutcome} (hbad : (∃ k, r = .badFrame k) ∨ r = .badLength)
    (h : fifoRead now n s = .ok (r, v)) : fifoReadStep now n s = .ok (badBatchStep v) := by
  rcases hbad with ⟨k, rfl⟩ | rfl <;> rw [fifoReadStep, h]

/-- FifoRead keeps the parameters and the bad-frame streak (R41, R128). -/
theorem fifoRead_badframeStreak {r : FifoReadOutcome} (h : fifoRead now n s = .ok (r, v)) :
    v.cfg = s.cfg ∧ v.ctx.badframeStreak = s.ctx.badframeStreak := by
  obtain ⟨_, -, hd⟩ := fifoRead_did (P := fun _ => True) h fun _ => trivial
  exact ⟨hd.cfg, by rw [hd.ctx]⟩

end

theorem readFifoCount_badframeStreak (s : State) : (readFifoCount s).2.ctx.badframeStreak = s.ctx.badframeStreak := by
  obtain ⟨_, _, -, -, hd⟩ := readFifoCount_did (P := fun _ => True) s (fun _ => trivial) fun _ => trivial
  rw [hd.ctx]

theorem badBatchStep_of_lt (h : s.ctx.badframeStreak + 1 < s.cfg.badframeResetThreshold) :
    badBatchStep s = (false, s.badBatch) := if_neg (Nat.not_le.mpr h)

theorem badBatchStep_of_le (h : s.cfg.badframeResetThreshold ≤ s.ctx.badframeStreak + 1) :
    badBatchStep s = flushStep s.badBatch := if_pos h

end

/-- Settles O43: by the outcome of the count, then of the batch, then by the bad-frame threshold. -/
theorem fifoOutcomesInATick : Obligations.FifoOutcomesInATick := by
  unfold Obligations.FifoOutcomesInATick
  intro s hr hc hs hm hw counted ends flush
  have hwork := afterWork_of_work hw
  have hends : ∀ {b v}, fifoWork s.clockValue (workStart s) = .ok (b, v) → ends b v := fun h =>
    exec_tick_of_afterWork_ok hr hc hs hm (hwork.trans h)
  have hflush : ∀ {v}, fifoWork s.clockValue (workStart s) = .ok (flushStep v) → flush v := fun {v} h =>
    hends (h.trans (by rw [flushStep_eq]))
  refine ⟨fun h => hends (fifoWork_of_busErr h), fun h => hends (fifoWork_of_empty h),
    fun h => hflush (fifoWork_of_overflow h), fun n hn => ?_⟩
  have hread : fifoWork s.clockValue (workStart s) = fifoReadStep s.clockValue n counted.2 := fifoWork_of_count hn
  refine ⟨fun f hf => exec_tick_of_afterWork_error hr hc hs hm
    (hwork.trans (hread.trans (fifoReadStep_of_error hf))), fun r v hv => ?_⟩
  intro worse
  refine ⟨?_, ?_, fun hbad => ?_⟩
  · rintro rfl
    exact hends (hread.trans (fifoReadStep_of_ok hv))
  · rintro rfl
    exact hends (hread.trans (fifoReadStep_of_busErr hv))
  obtain ⟨hcfg', -, hstreak'⟩ := afterCheck_kept hm
  obtain ⟨hcfg'', hstreak''⟩ := fifoRead_badframeStreak hv
  have hcfg : v.cfg = s.cfg := hcfg''.trans ((readFifoCount_cfg _).trans hcfg')
  have hstreak : v.ctx.badframeStreak = s.ctx.badframeStreak :=
    hstreak''.trans ((readFifoCount_badframeStreak _).trans hstreak')
  have hworse : v.badBatch = worse := by simp only [worse, State.badBatch, hstreak]
  have hstep := hread.trans (fifoReadStep_of_bad hbad hv)
  refine ⟨fun hlt => hends (hstep.trans ?_), fun hle => ⟨hflush (hstep.trans ?_), fifoReset_badframeStreak worse⟩⟩
  · rw [badBatchStep_of_lt (by rwa [hcfg, hstreak]), hworse]
  · rw [badBatchStep_of_le (by rwa [hcfg, hstreak]), hworse]

/-! ## The temperature update of a tick (R156) -/

theorem due_some_iff {interval : Nat} {now since : Time} (h : since ≤ now) :
    due interval now (some since) = true ↔ interval ≤ (now - since).toNat := by
  rw [due, decide_eq_true_iff, elapsed_of_le h]

/-- The transactions of a register pair: the high byte is read where the low byte could be (R96). -/
theorem readPair_requests (lo hi : Byte) (s : State) : requests (readPair lo hi s).2.out.busLog =
    requests s.out.busLog ++ (.readRegister, lo) ::
      if (s.answer (.read lo)).error then [] else [(.readRegister, hi)] := by
  rw [readPair_eq]
  cases (s.answer (.read lo)).error <;> simp [requests]

section
variable {now : Time} {s : State} (hdue : due s.cfg.tempIntervalUs now s.ctx.tTemp = true)
include hdue

theorem temperatureStep_of_due :
    temperatureStep now false s = ((temperatureUpdate now s).1 == .busErr, (temperatureUpdate now s).2) := by
  rw [temperatureStep, if_pos (by rw [hdue]; rfl)]
  split <;> rename_i hu <;> rw [hu] <;> rfl

/-- A due update whose pair could not be read is accounted as a bus error (R136, R156, R157). -/
theorem finishFifoRead_of_pair_none (h : (readPair s.cfg.regTempLo s.cfg.regTempHi s).1 = none) :
    finishFifoRead now false s = (readPair s.cfg.regTempLo s.cfg.regTempHi s).2.accountBusError true := by
  rw [finishFifoRead, temperatureStep_of_due hdue, temperatureUpdate_eq, h]
  rfl

/-- A due update that read its pair stores it (R136, R156). -/
theorem finishFifoRead_of_pair_some {raw : Half} (h : (readPair s.cfg.regTempLo s.cfg.regTempHi s).1 = some raw) :
    finishFifoRead now false s =
      ((readPair s.cfg.regTempLo s.cfg.regTempHi s).2.setTemperature now raw).accountBusError false := by
  rw [finishFifoRead, temperatureStep_of_due hdue, temperatureUpdate_eq, h]
  rfl

end

/-- The work of a tick keeps the parameters and the temperature time. -/
theorem afterWork_kept {s v : State} {busErr : Bool} (hm : (checkStep s.clockValue (prologue s)).1 = .matched)
    (h : afterWork s = .ok (busErr, v)) : v.cfg = s.cfg ∧ v.ctx.tTemp = s.ctx.tTemp := by
  obtain ⟨hcfg, htemp, -⟩ := afterCheck_kept hm
  by_cases hw : fifoWorkAt s = true
  · rw [afterWork_of_work hw] at h
    obtain ⟨hcfg', htemp'⟩ := fifoWork_tTemp h
    exact ⟨hcfg'.trans hcfg, htemp'.trans htemp⟩
  · rw [afterWork_of_idle hw] at h
    cases h
    exact ⟨hcfg, htemp⟩

/-- Settles O44: by the outcome of the check and, after it and the work, by whether the temperature pair could be read. -/
theorem temperatureUpdateInATick : Obligations.TemperatureUpdateInATick := by
  unfold Obligations.TemperatureUpdateInATick
  refine ⟨fun interval now since => ⟨rfl, due_some_iff⟩,
    fun s hr hc hs => ⟨exec_tick_of_checkBusErr hr hc hs, fun hm busErr v hv => ?_⟩⟩
  intro lo hi failed run
  obtain ⟨hcfg, htemp⟩ := afterWork_kept hm hv
  have htick := exec_tick_of_afterWork_ok hr hc hs hm hv
  have hrun : (!busErr && due v.cfg.tempIntervalUs s.clockValue v.ctx.tTemp) = run := by rw [hcfg, htemp]
  refine ⟨fun h => ?_, fun h => ⟨_, pair lo.byte hi.byte, htick, pair_toNat _ _, ?_⟩⟩
  · rw [htick, finishFifoRead, temperatureStep_of_idle (hrun.trans h)]
  obtain ⟨hb, hdue⟩ := Bool.and_eq_true_iff.mp (hrun.trans h)
  obtain rfl : busErr = false := by simpa using hb
  have hpair : (readPair v.cfg.regTempLo v.cfg.regTempHi v).1 = if failed then none else some (pair lo.byte hi.byte) := by
    rw [readPair_eq, hcfg]
  have hread : Did (fun _ => True) v v.ctx (readPair v.cfg.regTempLo v.cfg.regTempHi v).2 :=
    readPair_did _ _ v (fun _ => trivial) fun _ => trivial
  have hreq := readPair_requests v.cfg.regTempLo v.cfg.regTempHi v
  cases hf : failed with
  | true =>
    rw [hf] at hpair
    rw [finishFifoRead_of_pair_none hdue hpair]
    exact ⟨by rw [accountBusError_out, hreq, hcfg], nofun, fun _ => accountBusError_ctx_congr hread.cfg hread.ctx true⟩
  | false =>
    rw [hf] at hpair
    rw [finishFifoRead_of_pair_some hdue hpair]
    refine ⟨by rw [accountBusError_out, State.setTemperature_out, hreq, hcfg], fun _ => ?_, nofun⟩
    rw [accountBusError_false, State.setTemperature_ctx, hread.ctx]

/-! ## The transition table (R167) -/

/-- The change of the acquisition state from `s` to `t` is a row of the table, and the state it enters has its timestamp. -/
def TableRow (i : Instr) (s t : State) : Prop :=
  StateChange i s t ∧ (t.ctx.state = .waitForReset → t.ctx.tReset ≠ none) ∧
    (t.ctx.state = .fifoRead → t.ctx.tDrdy ≠ none)

section
variable {s t : State}

/-- A row that enters neither WAIT_FOR_RESET nor FIFO_READ asks for no timestamp. -/
theorem TableRow.of_change {i : Instr} (h : StateChange i s t) (hw : t.ctx.state ≠ .waitForReset)
    (hf : t.ctx.state ≠ .fifoRead) : TableRow i s t := ⟨h, fun h => absurd h hw, fun h => absurd h hf⟩

theorem armReset_row (hs : s.ctx.state = .reset) (hne : (armReset s.clockValue (prologue s)).ctx.state ≠ s.ctx.state) :
    TableRow .tick s (armReset s.clockValue (prologue s)) := by
  rcases armReset_did (P := fun _ => True) s.clockValue (prologue s) fun _ => trivial with hd | ⟨hok, hd⟩
  · exact absurd (by rw [hd.ctx, prologue_state]) hne
  · refine ⟨?_, fun _ => ?_, fun h => ?_⟩
    · simpa [StateChange, hs, hd.ctx] using hok
    · simp [hd.ctx]
    · simp [hd.ctx] at h

theorem armWait_row (hs : s.ctx.state = .waitForReset)
    (hne : (armWait s.clockValue (prologue s)).ctx.state ≠ s.ctx.state) :
    TableRow .tick s (armWait s.clockValue (prologue s)) := by
  have hreset : (prologue s).ctx.tReset = s.ctx.tReset := by rw [prologue_ctx_eq]
  rcases armWait_did (P := fun _ => True) s.clockValue (prologue s) fun _ _ => trivial with
    hd | ⟨hmin, hset, hd⟩ | ⟨hmax, hset, hd⟩
  · exact absurd (by rw [hd.ctx, prologue_state]) hne
  · refine .of_change ?_ (by simp [hd.ctx]) (by simp [hd.ctx])
    simpa [StateChange, hs, hd.ctx] using ⟨hreset ▸ hmin, hset⟩
  · refine .of_change ?_ (by simp [hd.ctx]) (by simp [hd.ctx])
    simpa [StateChange, hs, hd.ctx] using ⟨hset, hreset ▸ hmax⟩

theorem armConfigure_row (hs : s.ctx.state = .configure)
    (hne : (armConfigure s.clockValue (prologue s)).ctx.state ≠ s.ctx.state) :
    TableRow .tick s (armConfigure s.clockValue (prologue s)) := by
  have hstreak : (prologue s).ctx.configFailStreak = s.ctx.configFailStreak := by rw [prologue_ctx_eq]
  obtain ⟨n, -, ⟨hok, hd⟩ | ⟨-, hd⟩ | ⟨hfail, hmax, hd⟩⟩ := armConfigure_did (P := fun _ => True) s.clockValue
    (prologue s) fun _ _ _ => ⟨trivial, fun _ => trivial⟩
  · refine ⟨?_, fun h => ?_, fun _ => ?_⟩
    · simpa [StateChange, hs, hd.ctx] using hok
    · simp [hd.ctx] at h
    · simp [hd.ctx]
  · exact absurd (by simp [hd.ctx]) hne
  · refine .of_change ?_ (by simp [hd.ctx]) (by simp [hd.ctx])
    simpa [StateChange, hs, hd.ctx] using ⟨hfail, hstreak ▸ hmax⟩

/-- A run that ended in a bus error ends in its event. -/
theorem BusRun.endsInBusError (h : BusRun s t true) : EndsInBusError s t := by
  obtain ⟨new, hlog, -, hlast⟩ := h.events
  obtain ⟨e, he, herr⟩ := hlast.mp rfl
  have hne : new ≠ [] := by
    rintro rfl
    cases he
  refine ⟨by rw [hlog, List.length_append]; exact Nat.lt_add_of_pos_right (List.length_pos_of_ne_nil hne), e, ?_, herr⟩
  rw [hlog, List.getLast?_append, he]
  rfl

theorem armFifoRead_row (hs : s.ctx.state = .fifoRead)
    (h : armFifoRead s.clockValue (drdyPending s) (prologue s) = .ok t) (hne : t.ctx.state ≠ s.ctx.state) :
    TableRow .tick s t := by
  have hst : (prologue s).ctx.state = .fifoRead := (prologue_state s).trans hs
  rcases armFifoRead_inv (P := fun _ => True) (fun _ _ => trivial) hst h with
    ⟨u, -, -, rfl, hm, -⟩ | ⟨u, b, ⟨hd, hw⟩, rfl, hrun⟩
  · refine .of_change ?_ (by simp) (by simp)
    simpa [StateChange, hs] using hm
  have hu : u.ctx.state = s.ctx.state := hw.state.trans (prologue_state s)
  rcases accountBusError_ctx u b with ⟨-, hc⟩ | ⟨-, -, hc⟩ | ⟨rfl, hmax, hc⟩
  · exact absurd (by rw [hc]; exact hu) hne
  · exact absurd (by rw [hc]; exact hu) hne
  · have hends : EndsInBusError s (u.accountBusError true) := by
      rw [EndsInBusError, accountBusError_out]
      exact hrun.endsInBusError
    rw [hd.cfg, hw.busErrorStreak, prologue_busErrorStreak] at hmax
    refine .of_change ?_ (by simp [hc]) (by simp [hc])
    simpa [StateChange, hs, hc] using ⟨hends, hmax⟩

/-- Every change a tick makes is a row of its arm. -/
theorem runArm_row (h : runArm s.clockValue (drdyPending s) (prologue s) = .ok t) (hne : t.ctx.state ≠ s.ctx.state) :
    TableRow .tick s t := by
  rw [runArm, prologue_state] at h
  split at h <;> rename_i hs
  · cases h
    exact armReset_row hs hne
  · cases h
    exact armWait_row hs hne
  · cases h
    exact armConfigure_row hs hne
  · exact armFifoRead_row hs h hne
  · cases h
    exact .of_change (by simp [StateChange, hs, armRequestStop]) nofun nofun
  · cases h
    exact absurd (prologue_state s) hne

/-- Every change of the acquisition state is a row of the table: of the operations but the tick, the commands alone make
one. -/
theorem exec_row {i : Instr} (h : exec i s = .next t) (hne : t.ctx.state ≠ s.ctx.state) : TableRow i s t := by
  by_cases hi : classOf i = .boundary
  case neg =>
    obtain ⟨-, -, r, u, c, rfl, hd, hw⟩ := exec_alone_inv (P := fun _ => True) hi h fun _ _ => trivial
    exact absurd (by rw [State.record_ctx, hd.ctx, hw.state, State.timed_ctx]) hne
  cases i with
  | tick =>
    rcases exec_tick_inv h with ⟨-, rfl⟩ | ⟨-, -, ha⟩
    · exact absurd rfl hne
    · exact runArm_row ha hne
  | drdySignal =>
    cases h
    exact absurd (by rw [State.drdySignal_ctx]) hne
  | timerExpire =>
    cases h
    exact absurd (by rw [State.timerExpire_ctx]) hne
  | cmdStart =>
    rw [exec_cmdStart] at h
    split at h
    · rename_i hs
      cases h
      exact .of_change (by simp [StateChange, hs]) nofun nofun
    · cases h
      exact absurd rfl hne
  | cmdStop =>
    rw [exec_cmdStop] at h
    split at h
    · cases h
      exact absurd rfl hne
    · rename_i hs
      cases h
      refine .of_change ?_ nofun nofun
      cases hst : s.ctx.state with
      | stopped => exact absurd hst hs
      | _ => simp [StateChange, hst]
  | cmdReset =>
    cases h
    exact .of_change (by simp [StateChange]) nofun nofun
  | cmdPrintDiagnostics =>
    cases h
    exact absurd rfl hne
  | _ => cases hi

end

/-- Settles O52: creation is in RESET, and every change is a row. -/
theorem transitionTable : Obligations.TransitionTable := by
  unfold Obligations.TransitionTable
  exact ⟨fun _ => rfl, fun _ _ _ h hne => exec_row h hne⟩

end Sys2Proof.Machine
